-- ==== Sys2Proof/Word.lean ====
section
/-!
DEFINITION. The types whose widths the source fixes (00_scope.md R6). Every value is an unsigned bit vector (section 7.1). The
widths the source leaves open (R7) are fields of `Widths` in Config.lean.
-/

namespace Sys2Proof

/-- The path history register and every 32-bit intermediate of the hashes (PHR_W = 32, R6). -/
abbrev Phr := BitVec 32

/-- A predicted or actual value, and the `address` field of an entry (VALUE_W = 64, R6). -/
abbrev Value := BitVec 64

/-- A table index: a type with exactly N_ENTRIES = 1024 values (INDEX_W = 10, R6, 20_memory.md R33). -/
abbrev Index := BitVec 10

/-- A tag (TAG_W = 14, R6). -/
abbrev Tag := BitVec 14

/-- A confidence in 0 .. 3 (CONF_W = 2, R6). -/
abbrev Confidence := BitVec 2

/-- The operation code on `cmd[2:0]` (30_encoding.md R45, R47). -/
abbrev Cmd := BitVec 3

end Sys2Proof
end

