-- ==== Sys2Proof/Config.lean ====
section
/-!
DEFINITION. What the spec asks a model to carry as configuration: the parameters of 00_scope.md R7, each a field whose default
is the value R7 gives, and the three hash functions, of which only the laws are the source's (R8, 40_path_history.md R66,
41_index_tag.md R70, R74). The open widths stand in a structure of their own, since the types of the other fields and of the
engine are made from them. The machine runs `Widths.reference` and `Config.reference` (Machine/Hash.lean). A claim over every
`w : Widths` and `c : Config w` uses the laws alone: being a function of these operands with these ranges is all they give.
-/

namespace Sys2Proof

/-- The widths the source leaves open (00_scope.md R7). -/
structure Widths where
  /-- PC_W: the width of the pc operand (decision D3). -/
  pcW : Nat := 64
  /-- SIZE_W: the width of the size field and operand (decision D12). -/
  sizeW : Nat := 8
  /-- STAT_W: the width of the two counters (decision D14). -/
  statW : Nat := 64
deriving DecidableEq, Repr

/-- ENTRY_W, the bits of a packed entry: R7 gives it as the sum of the widths of the four fields (decision D18). -/
abbrev Widths.entryW (w : Widths) : Nat := 14 + 64 + 2 + w.sizeW

/-- The defaults of 00_scope.md R7. -/
abbrev Widths.reference : Widths := {}

/-- The other parameters the source leaves open (00_scope.md R7, R8), for given widths. -/
structure Config (w : Widths) where
  /-- PH_SHIFT: the left shift of the PHR in UPH (decision D5). -/
  phShift : Nat := 4
  /-- PC_DROP: the low pc bits dropped before folding into the PHR (decision D5). -/
  pcDrop : Nat := 2
  /-- CONF_THRESHOLD: a hit needs a confidence above it (42_lookup.md R80, decision D8). -/
  confThreshold : Nat := 0
  /-- MISS_VALUE: the `value` output of a PREDICT that misses (43_predict.md R88, decision D13). -/
  missValue : Value := 0
  /-- PHR_RESET: the PHR after reset (10_state.md R22, decision D15). -/
  phrReset : Phr := 0
  /-- The path-history fold, for a shift and a number of dropped bits: old PHR and pc to new PHR (40_path_history.md R66). -/
  phFold : Nat → Nat → Phr → BitVec w.pcW → Phr
  /-- The indexer: pc and PHR to an index (41_index_tag.md R70). -/
  calcIndex : BitVec w.pcW → Phr → Index
  /-- The tag generator, a function of pc alone (41_index_tag.md R74). -/
  calcTag : BitVec w.pcW → Tag

end Sys2Proof
end

