-- ==== Sys2Proof/Machine/Hash.lean ====
section
/-!
DEFINITION. The reference instantiation of the three hash functions and the default configuration (00_scope.md R7, R8;
30_encoding.md R53, R54; 40_path_history.md R67; 41_index_tag.md R72, R76). The formulas are the spec's own choice
(92_eei_decisions.md D4 to D7, D27), log entry 4.
-/

namespace Sys2Proof

/-- The low half of pc XOR its high half (30_encoding.md R53); a pc narrower than 64 bits is zero-extended (R54). -/
def pcfold {n : Nat} (pc : BitVec n) : BitVec 32 := pc.extractLsb' 0 32 ^^^ pc.extractLsb' 32 32

/-- The reference fold for a left shift `phShift` and `pcDrop` dropped low bits (40_path_history.md R67). -/
def phUpdateRef {n : Nat} (phShift pcDrop : Nat) (h : Phr) (pc : BitVec n) : Phr :=
  (h <<< phShift) ^^^ (pcfold pc >>> pcDrop)

/-- The XOR of the three 10-bit chunks and the 2-bit rest of a 32-bit value (41_index_tag.md R72). -/
def fold10 (x : BitVec 32) : Index :=
  x.extractLsb' 0 10 ^^^ x.extractLsb' 10 10 ^^^ x.extractLsb' 20 10 ^^^ (x.extractLsb' 30 2).setWidth 10

/-- The reference indexer (41_index_tag.md R72). -/
def calcIndexRef {n : Nat} (pc : BitVec n) (h : Phr) : Index := fold10 (pcfold pc ^^^ h)

/-- The XOR of the two 14-bit chunks and the 4-bit rest of a 32-bit value (41_index_tag.md R76). -/
def fold14 (y : BitVec 32) : Tag :=
  y.extractLsb' 0 14 ^^^ y.extractLsb' 14 14 ^^^ (y.extractLsb' 28 4).setWidth 14

/-- The reference tag generator (41_index_tag.md R76). -/
def calcTagRef {n : Nat} (pc : BitVec n) : Tag := fold14 (pcfold pc)

/-- The fold a configuration uses: its `phFold` at its PH_SHIFT and PC_DROP. A total function of the old PHR and pc alone
(40_path_history.md R66). -/
def Config.phUpdate {w : Widths} (c : Config w) (h : Phr) (pc : BitVec w.pcW) : Phr := c.phFold c.phShift c.pcDrop h pc

/-- The reference hashes, and every parameter at the default of 00_scope.md R7. -/
def Config.reference : Config Widths.reference :=
  { phFold := phUpdateRef
    calcIndex := calcIndexRef
    calcTag := calcTagRef }

end Sys2Proof
end

