-- ==== Sys2Proof/Syntax.lean ====
section
/-!
DEFINITION. The six operations of spec/opcode_table.json and the input ports they are issued on (30_encoding.md R45, R47).
-/

namespace Sys2Proof

/-- The program counter of a load, always an operand, never a register (PC_W, 00_scope.md R7, 10_state.md R20). -/
abbrev Pc := BitVec Widths.reference.pcW

/-- An access width in bytes, never interpreted (SIZE_W, 00_scope.md R7, 44_train.md R103). -/
abbrev Size := BitVec Widths.reference.sizeW

/-- A statistics counter (STAT_W, 00_scope.md R7). -/
abbrev Counter := BitVec Widths.reference.statW

/-- A packed entry (ENTRY_W, 00_scope.md R7, 30_encoding.md R51). -/
abbrev Packed := BitVec Widths.reference.entryW

/-- The operations, one constructor per row of the opcode table, operands in the order of the table. -/
inductive Instr where
  /-- NOP (45_stats.md R109). -/
  | nop
  /-- UPH pc (40_path_history.md R65). -/
  | uph (pc : Pc)
  /-- PREDICT pc (43_predict.md R87). -/
  | predict (pc : Pc)
  /-- TRAIN pred, actual, pc, size (44_train.md R90). -/
  | train (pred actual : Value) (pc : Pc) (size : Size)
  /-- UPDSTATS pred, actual, pc (45_stats.md R105). -/
  | updstats (pred actual : Value) (pc : Pc)
  /-- RDENTRY idx (42_lookup.md R84). -/
  | rdentry (idx : Index)
deriving DecidableEq, Repr

/-- One sample of the input ports, taken when an operation is issued (30_encoding.md R45). -/
structure Ports where
  rst : Bool
  cmd : Cmd
  pc : Pc
  pred : Value
  actual : Value
  size : Size
  idx : Index
deriving DecidableEq, Repr

/-- The sample that carries an operation code and 0 on every other port. -/
def Ports.ofCmd (c : Cmd) : Ports :=
  { rst := false, cmd := c, pc := 0, pred := 0, actual := 0, size := 0, idx := 0 }

/-- No operation issued: every port 0, which is the code of NOP (45_stats.md R109). -/
def Ports.idle : Ports := Ports.ofCmd 0

/-- A reset request; the command with it is ignored (30_encoding.md R46, 70_reset_and_hazards.md R120). -/
def Ports.reset : Ports := { Ports.idle with rst := true }

end Sys2Proof
end

