-- ==== Sys2Proof/Machine/State.lean ====
section
/-!
DEFINITION. The state (10_state.md) as plain data, and the state after reset (10_state.md R22).
-/

namespace Sys2Proof.Machine

/-- A table entry (10_state.md R12). -/
structure Entry (w : Widths) where
  tag : Tag
  address : Value
  confidence : Confidence
  size : BitVec w.sizeW
deriving DecidableEq, Repr

/-- EMPTY_ENTRY, the value of every slot after reset (10_state.md R13). -/
def Entry.empty {w : Widths} : Entry w := { tag := 0, address := 0, confidence := 0, size := 0 }

/-- The table: the slots that are not EMPTY_ENTRY, by strictly rising index; a slot that is not listed holds
EMPTY_ENTRY (10_state.md R14, R22; log entry 3). -/
abbrev Table (w : Widths) := List (Index × Entry w)

/-- The state of the engine: "exactly four things" (10_state.md R10). Nothing of an operation
stays in it but what the operation writes to these four (R21). -/
structure Engine (w : Widths) where
  /-- The path history register PHR (10_state.md R11). -/
  phr : Phr
  /-- The table APT (10_state.md R14). -/
  apt : Table w
  /-- Predictions evaluated (10_state.md R15). -/
  total : BitVec w.statW
  /-- Predictions that were right (10_state.md R15). -/
  numCorrect : BitVec w.statW
deriving DecidableEq, Repr

/-- The result outputs of one operation (30_encoding.md R45). They are no part of `State`: "a model must not store them"
(10_state.md R21). -/
structure Results (w : Widths) where
  hit : Bool
  value : Value
  eTag : Tag
  eAddress : Value
  eConfidence : Confidence
  eSize : BitVec w.sizeW
deriving DecidableEq, Repr

/-- Every result output 0, what an operation gives that defines no output (30_encoding.md R46). -/
def Results.zero {w : Widths} : Results w :=
  { hit := false, value := 0, eTag := 0, eAddress := 0, eConfidence := 0, eSize := 0 }

/-- What an operation answers: it is "one atomic state transition with inputs and outputs" (00_scope.md section 4). -/
structure Answer (w : Widths) where
  /-- The engine that the operation leaves. -/
  engine : Engine w
  /-- The result outputs that the operation drives while it is issued. -/
  results : Results w
deriving DecidableEq, Repr

/-- Why the machine stops with a fault: never. The list of causes is empty (60_exceptions.md R110), so the type has no
constructor; no meaning raises one, and nothing is lost by it (safe). -/
inductive Fault where
deriving DecidableEq, Repr

/-- Why an instruction is refused. -/
inductive Refusal where
  /-- The host's name for an arm of exec without a meaning. No arm of this model raises it; refusing would be safe. -/
  | notModelled (mnemonic : String)
deriving DecidableEq, Repr

/-- The block, which is its engine and nothing else (10_state.md R10), and the commands that the host will issue. Neither the
operands nor the results of an operation stay in it once it has completed (R21). -/
structure State where
  engine : Engine Widths.reference
  /-- The samples of the ports the host has still to issue, oldest first; no state of the block (log entry 1). -/
  pending : List Ports
deriving DecidableEq, Repr

/-- The engine after reset under a configuration (10_state.md R22, 70_reset_and_hazards.md R120). -/
def Engine.resetWith {w : Widths} (c : Config w) : Engine w :=
  { phr := c.phrReset, apt := [], total := 0, numCorrect := 0 }

/-- The machine right after reset: the engine as 10_state.md R22 says, no command pending. -/
def State.reset : State :=
  { engine := Engine.resetWith Config.reference, pending := [] }

end Sys2Proof.Machine
end

