-- ==== Sys2Proof/Machine/Ops.lean ====
section
/-!
DEFINITION. The named operations on the table and the state: TableRead, TableWrite (20_memory.md R30, R31), the canonical form
of the table, answering without a result, and completing an operation. The block takes no exception and returns from none
(60_exceptions.md R110, R115), so no such operation stands here.
-/

namespace Sys2Proof.Machine

variable {w : Widths}

/-- TableRead, the document's getEntry: the whole entry at an index (20_memory.md R30). -/
def tableRead : Table w → Index → Entry w
  | [], _ => Entry.empty
  | (j, e) :: rest, i => if j = i then e else tableRead rest i

/-- The table without any listed entry at `i`. -/
def tableErase (t : Table w) (i : Index) : Table w := t.filter fun c => c.1 != i

/-- The table with the cell `(i, e)` put before the first cell of a greater index. -/
def tableInsert : Table w → Index → Entry w → Table w
  | [], i, e => [(i, e)]
  | (j, f) :: rest, i, e => if i < j then (i, e) :: (j, f) :: rest else (j, f) :: tableInsert rest i e

/-- TableWrite, the document's setEntry: replaces the whole entry at an index and changes no other slot
(20_memory.md R31, 42_lookup.md R85). Writing EMPTY_ENTRY takes the slot off the list. -/
def tableWrite (t : Table w) (i : Index) (e : Entry w) : Table w :=
  if e = Entry.empty then tableErase t i else tableInsert (tableErase t i) i e

/-- The canonical form of the table: indexes strictly rising and no listed EMPTY_ENTRY, so that equal tables are equal
data (log entry 3). -/
abbrev Table.wf (t : Table w) : Prop :=
  t.Pairwise (fun a b => a.1 < b.1) ∧ ∀ c ∈ t, c.2 ≠ Entry.empty

/-- The answer of an operation that has no result: every result output 0 (30_encoding.md R46). -/
def Answer.silent (g : Engine w) : Answer w := { engine := g, results := Results.zero }

/-- An operation completes: the engine it leaves takes the place of the old one, all at once (20_memory.md R36). Its results
stood on the output ports and are not kept (10_state.md R21); `outputs` and `State.outPorts` give them. -/
def State.finish (s : State) (a : Answer Widths.reference) : State := { s with engine := a.engine }

/-- The packed form of an entry, `tag, address, confidence, size` from the top (30_encoding.md R51). -/
def Entry.pack (e : Entry w) : BitVec w.entryW := ((e.tag ++ e.address) ++ e.confidence) ++ e.size

/-- The entry that a packed value holds (30_encoding.md R51). -/
def Entry.unpack (v : BitVec w.entryW) : Entry w :=
  { tag := v.extractLsb' (64 + 2 + w.sizeW) 14
    address := v.extractLsb' (2 + w.sizeW) 64
    confidence := v.extractLsb' w.sizeW 2
    size := v.extractLsb' 0 w.sizeW }

end Sys2Proof.Machine
end

