-- ==== Sys2Proof/Machine/PathHistory.lean ====
section
/-!
DEFINITION. The operation UPH (40_path_history.md R65).
-/

namespace Sys2Proof.Machine

variable {w : Widths}

/-- The engine after UPH pc: pc is folded into the PHR, nothing else changes (40_path_history.md R65). -/
def uphEngine (c : Config w) (pc : BitVec w.pcW) (g : Engine w) : Engine w := { g with phr := c.phUpdate g.phr pc }

/-- What UPH pc answers: no result (40_path_history.md R65). -/
def uphAnswer (c : Config w) (pc : BitVec w.pcW) (g : Engine w) : Answer w := .silent (uphEngine c pc g)

/-- UPH pc (40_path_history.md R65). -/
def execUph (pc : Pc) (s : State) : Host.Outcome State Fault Refusal :=
  .next (s.finish (uphAnswer Config.reference pc s.engine))

end Sys2Proof.Machine
end

