-- ==== Sys2Proof/Machine/Flags.lean ====
section
/-!
DEFINITION. The block has no flag register (10_state.md R20). Here stand the computations that decide: the correctness test,
the saturating confidence and counter arithmetic, and the names of the confidence states.
-/

namespace Sys2Proof.Machine

/-- CONF_MAX (00_scope.md R6). -/
def confMax : Nat := 3

/-- CONF_INIT, the confidence of a new entry (00_scope.md R6, 44_train.md R95). -/
def confInit : Confidence := 1

/-- `pred == actual` on 64 bits; pc is accepted only for symmetry (44_train.md R92). -/
def isCorrectPred {n : Nat} (pred actual : Value) (_pc : BitVec n) : Bool := pred == actual

/-- `min(old + 1, 3)`, clamped, not wrapping (44_train.md R93). -/
def incrementConfidence (old : Confidence) : Confidence := BitVec.ofNat 2 (min (old.toNat + 1) confMax)

/-- `max(old - 1, 0)`, clamped, not wrapping (44_train.md R94): the subtraction of naturals stops at 0. -/
def decrementConfidence (old : Confidence) : Confidence := BitVec.ofNat 2 (old.toNat - 1)

/-- The spec's satinc64 at STAT_W = n: `min(c + 1, 2^n - 1)`, which never wraps (45_stats.md R105). -/
def satinc64 {n : Nat} (c : BitVec n) : BitVec n := BitVec.ofNat n (min (c.toNat + 1) (2 ^ n - 1))

/-- The names of the per-slot states (30_encoding.md R52). -/
inductive Tier where
  | empty
  | lowConf
  | medConf
  | highConf
deriving DecidableEq, Repr

/-- The state a confidence encodes (30_encoding.md R52). -/
def tierOf (k : Confidence) : Tier :=
  match k.toNat with
  | 0 => .empty
  | 1 => .lowConf
  | 2 => .medConf
  | _ => .highConf

end Sys2Proof.Machine
end

