-- ==== Sys2Proof/Machine/Operands.lean ====
section
/-!
DEFINITION. The operand forms. Every operand arrives whole on its port (30_encoding.md R53); what the block forms from one is
the slot and the tag of a pc (41_index_tag.md R70, R71, R74).
-/

namespace Sys2Proof.Machine

variable {w : Widths}

/-- The slot a pc selects under the PHR as it is now (41_index_tag.md R70, R71). -/
def slotOf (c : Config w) (pc : BitVec w.pcW) (g : Engine w) : Index := c.calcIndex pc g.phr

/-- The entry a pc selects: TableRead at its slot (43_predict.md R87, 44_train.md R90). -/
def entryOf (c : Config w) (pc : BitVec w.pcW) (g : Engine w) : Entry w := tableRead g.apt (slotOf c pc g)

end Sys2Proof.Machine
end

