-- ==== Sys2Proof/Machine/Lookup.lean ====
section
/-!
DEFINITION. The tag-match arbiter (42_lookup.md R80 to R82) and the debug read RDENTRY (R84).
-/

namespace Sys2Proof.Machine

variable {w : Widths}

/-- The arbiter: tags equal and confidence above the threshold (42_lookup.md R80). -/
def queryHitMiss (c : Config w) (e : Entry w) (t : Tag) : Bool :=
  e.tag == t && decide (c.confThreshold < e.confidence.toNat)

/-- The arbiter's answer for a pc in an engine; PREDICT and TRAIN share it (42_lookup.md R82). -/
def hits (c : Config w) (pc : BitVec w.pcW) (g : Engine w) : Bool := queryHitMiss c (entryOf c pc g) (c.calcTag pc)

/-- The outputs of RDENTRY: a copy of the slot (42_lookup.md R84). -/
def rdentryResults (idx : Index) (g : Engine w) : Results w :=
  let e := tableRead g.apt idx
  { (Results.zero : Results w) with eTag := e.tag, eAddress := e.address, eConfidence := e.confidence, eSize := e.size }

/-- What RDENTRY idx answers: the copy, and the engine as it is (42_lookup.md R84). -/
def rdentryAnswer (idx : Index) (g : Engine w) : Answer w := { engine := g, results := rdentryResults idx g }

/-- RDENTRY idx (42_lookup.md R84). -/
def execRdentry (idx : Index) (s : State) : Host.Outcome State Fault Refusal :=
  .next (s.finish (rdentryAnswer idx s.engine))

end Sys2Proof.Machine
end

