-- ==== Sys2Proof/Machine/Predict.lean ====
section
/-!
DEFINITION. The operation PREDICT (43_predict.md R87 to R89).
-/

namespace Sys2Proof.Machine

variable {w : Widths}

/-- The outputs of PREDICT pc: on a hit the entry's address, on a miss MISS_VALUE (43_predict.md R87, R88). -/
def predictResults (c : Config w) (pc : BitVec w.pcW) (g : Engine w) : Results w :=
  if hits c pc g then { Results.zero with hit := true, value := (entryOf c pc g).address }
  else { Results.zero with hit := false, value := c.missValue }

/-- What PREDICT pc answers: the hit and the value, and the engine as it is (43_predict.md R87, R89). -/
def predictAnswer (c : Config w) (pc : BitVec w.pcW) (g : Engine w) : Answer w :=
  { engine := g, results := predictResults c pc g }

/-- PREDICT pc (43_predict.md R87). -/
def execPredict (pc : Pc) (s : State) : Host.Outcome State Fault Refusal :=
  .next (s.finish (predictAnswer Config.reference pc s.engine))

end Sys2Proof.Machine
end

