-- ==== Sys2Proof/Machine/Stats.lean ====
section
/-!
DEFINITION. The operations UPDSTATS (45_stats.md R105, R106) and NOP (R109).
-/

namespace Sys2Proof.Machine

variable {w : Widths}

/-- The engine after UPDSTATS: `total` steps up, `numCorrect` too where the prediction was right (45_stats.md R105). -/
def updstatsEngine (pred actual : Value) (pc : BitVec w.pcW) (g : Engine w) : Engine w :=
  { g with
    total := satinc64 g.total
    numCorrect := if isCorrectPred pred actual pc then satinc64 g.numCorrect else g.numCorrect }

/-- What UPDSTATS answers: no result (45_stats.md R105). -/
def updstatsAnswer (pred actual : Value) (pc : BitVec w.pcW) (g : Engine w) : Answer w :=
  .silent (updstatsEngine pred actual pc g)

/-- UPDSTATS pred, actual, pc (45_stats.md R105). -/
def execUpdstats (pred actual : Value) (pc : Pc) (s : State) : Host.Outcome State Fault Refusal :=
  .next (s.finish (updstatsAnswer pred actual pc s.engine))

/-- What NOP answers: no state changes, every result output is 0 (45_stats.md R109). -/
def nopAnswer (g : Engine w) : Answer w := .silent g

/-- NOP (45_stats.md R109). -/
def execNop (s : State) : Host.Outcome State Fault Refusal :=
  .next (s.finish (nopAnswer s.engine))

end Sys2Proof.Machine
end

