-- ==== Sys2Proof/Machine/Train.lean ====
section
/-!
DEFINITION. The operation TRAIN and the training state machine (44_train.md R90 to R103).
-/

namespace Sys2Proof.Machine

variable {w : Widths}

/-- The entry a training call installs (44_train.md R95). -/
def allocateNew (c : Config w) (actual : Value) (pc : BitVec w.pcW) (size : BitVec w.sizeW) : Entry w :=
  { tag := c.calcTag pc, address := actual, confidence := confInit, size := size }

/-- The training state machine: the entry that replaces `e` (44_train.md R90, R96 to R99). -/
def trainEntry (c : Config w) (pred actual : Value) (pc : BitVec w.pcW) (size : BitVec w.sizeW) (e : Entry w) : Entry w :=
  if queryHitMiss c e (c.calcTag pc) then
    if isCorrectPred pred actual pc then
      { e with confidence := incrementConfidence e.confidence }
    else if e.confidence.toNat - 1 ≤ c.confThreshold then
      allocateNew c actual pc size
    else
      { e with confidence := decrementConfidence e.confidence }
  else
    allocateNew c actual pc size

/-- The engine after TRAIN: the one slot of pc is written, once (44_train.md R90, R101). -/
def trainEngine (c : Config w) (pred actual : Value) (pc : BitVec w.pcW) (size : BitVec w.sizeW) (g : Engine w) : Engine w :=
  { g with apt := tableWrite g.apt (slotOf c pc g) (trainEntry c pred actual pc size (entryOf c pc g)) }

/-- What TRAIN answers: no result (44_train.md R90, R101). -/
def trainAnswer (c : Config w) (pred actual : Value) (pc : BitVec w.pcW) (size : BitVec w.sizeW) (g : Engine w) : Answer w :=
  .silent (trainEngine c pred actual pc size g)

/-- TRAIN pred, actual, pc, size (44_train.md R90). -/
def execTrain (pred actual : Value) (pc : Pc) (size : Size) (s : State) : Host.Outcome State Fault Refusal :=
  .next (s.finish (trainAnswer Config.reference pred actual pc size s.engine))

end Sys2Proof.Machine
end

