-- ==== Sys2Proof/Machine/Dispatch.lean ====
section
/-!
DEFINITION. The meaning of every instruction, one arm per constructor.
-/

namespace Sys2Proof.Machine

def exec (i : Instr) (s : State) : Host.Outcome State Fault Refusal :=
  match i with
  | .nop => Sys2Proof.Machine.execNop s
  | .uph pc => Sys2Proof.Machine.execUph pc s
  | .predict pc => Sys2Proof.Machine.execPredict pc s
  | .train pred actual pc size => Sys2Proof.Machine.execTrain pred actual pc size s
  | .updstats pred actual pc => Sys2Proof.Machine.execUpdstats pred actual pc s
  | .rdentry idx => Sys2Proof.Machine.execRdentry idx s

end Sys2Proof.Machine
end

