-- ==== Sys2Proof/WellFormed.lean ====
section
/-!
DEFINITION. When a sample of the ports is one the encoder writes: no reset request, an assigned code, and 0 on the ports the
operation does not use. The machine runs every other sample too (30_encoding.md R46, R48, R50). A term of `Instr` needs no
check of its own: each operand has exactly the width of its port, by its type, and every value of it is legal
(60_exceptions.md R112).
-/

namespace Sys2Proof

/-- The code is one of the six of 30_encoding.md R47, not a reserved one (R50). -/
def Ports.cmdAssigned (p : Ports) : Bool := p.cmd.toNat < 6

/-- The ports that the operation with `p`'s code does not use are 0 (R47, column "operands used"; 95_test_vectors.md
section 3, "unused ports 0"). A reserved code uses none. -/
def Ports.unusedZero (p : Ports) : Bool :=
  match p.cmd.toNat with
  | 1 | 2 => p.pred == 0 && p.actual == 0 && p.size == 0 && p.idx == 0
  | 3 => p.idx == 0
  | 4 => p.size == 0 && p.idx == 0
  | 5 => p.pc == 0 && p.pred == 0 && p.actual == 0 && p.size == 0
  | _ => p.pc == 0 && p.pred == 0 && p.actual == 0 && p.size == 0 && p.idx == 0

/-- The three checks together. -/
def Ports.wellFormed (p : Ports) : Bool :=
  !p.rst && p.cmdAssigned && p.unusedZero

/-- Two samples carry the same operation: the same `rst` and code, and the same values on the ports that code uses
(30_encoding.md R47, R48). -/
def Ports.SameUsed (p q : Ports) : Prop :=
  p.rst = q.rst ∧ p.cmd = q.cmd ∧
    match p.cmd.toNat with
    | 1 | 2 => p.pc = q.pc
    | 3 => p.pred = q.pred ∧ p.actual = q.actual ∧ p.pc = q.pc ∧ p.size = q.size
    | 4 => p.pred = q.pred ∧ p.actual = q.actual
    | 5 => p.idx = q.idx
    | _ => True

end Sys2Proof
end

