-- ==== Sys2Proof/Decode.lean ====
section
/-!
DEFINITION. Decoding a sample of the ports (30_encoding.md R47, R50, R53), the encoder, and the word the host's table probe
gives. The operands are not in the command's bits: they stand whole on ports of their own (R53).
-/

namespace Sys2Proof

/-- Why a sample decodes to no row of the table: the code is reserved (30_encoding.md R50). -/
inductive Reject where
  | reservedCode (code : Cmd)
deriving DecidableEq, Repr

/-- What the decoder answers. -/
inductive Decoded where
  | instr (i : Instr)
  | rejected (r : Reject)
deriving DecidableEq, Repr

/-- The operation on the ports (30_encoding.md R47); a port that the operation does not use is not read (R48). -/
def decode (p : Ports) : Decoded :=
  match p.cmd.toNat with
  | 0 => .instr .nop
  | 1 => .instr (.uph p.pc)
  | 2 => .instr (.predict p.pc)
  | 3 => .instr (.train p.pred p.actual p.pc p.size)
  | 4 => .instr (.updstats p.pred p.actual p.pc)
  | 5 => .instr (.rdentry p.idx)
  | _ => .rejected (.reservedCode p.cmd)

/-- The ports that issue an operation: its code (30_encoding.md R47), its operands on their ports, 0 on the others. -/
def encode : Instr → Ports
  | .nop => Ports.ofCmd 0
  | .uph pc => { Ports.ofCmd 1 with pc := pc }
  | .predict pc => { Ports.ofCmd 2 with pc := pc }
  | .train pred actual pc size => { Ports.ofCmd 3 with pred := pred, actual := actual, pc := pc, size := size }
  | .updstats pred actual pc => { Ports.ofCmd 4 with pred := pred, actual := actual, pc := pc }
  | .rdentry idx => { Ports.ofCmd 5 with idx := idx }

/-- The sample whose table bits are the low `nbits` bits of `w`: `cmd` is `w[2:0]`, every other port is 0 (log entry 7). -/
def portsOfWord (nbits w : Nat) : Ports := Ports.ofCmd (BitVec.ofNat 3 (w % 2 ^ nbits))

/-- The operation the decoder reads from the word `w` of a row of spec/opcode_table.json, none for a reserved code. -/
def decodeTableWord (nbits w : Nat) : Option Instr :=
  match decode (portsOfWord nbits w) with
  | .instr i => some i
  | .rejected _ => none

end Sys2Proof
end

