-- ==== Sys2Proof/Machine/System.lean ====
section
/-!
DEFINITION. What the block does with a sample that issues no operation of the table: a reset request
(70_reset_and_hazards.md R120) and a reserved code (30_encoding.md R50).
-/

namespace Sys2Proof.Machine

variable {w : Widths}

/-- What a reset answers: the whole engine at its reset values, the outputs 0; the command with it is ignored
(70_reset_and_hazards.md R120, 30_encoding.md R46). -/
def resetAnswer (c : Config w) : Answer w := .silent (Engine.resetWith c)

/-- What a code answers that is no row of the table: it behaves as NOP (30_encoding.md R50, log entry 6). -/
def rejectedAnswer (r : Reject) (g : Engine w) : Answer w :=
  match r with
  | .reservedCode _ => .silent g

/-- Reset (70_reset_and_hazards.md R120). -/
def execReset (s : State) : Host.Outcome State Fault Refusal :=
  .next (s.finish (resetAnswer Config.reference))

/-- A code that is no row of the table (30_encoding.md R50). -/
def execRejected (r : Reject) (s : State) : Host.Outcome State Fault Refusal :=
  .next (s.finish (rejectedAnswer r s.engine))

end Sys2Proof.Machine
end

