-- ==== Sys2Proof/Machine/Issue.lean ====
section
/-!
DEFINITION. Issuing one sample of the ports (30_encoding.md R46): `rst` wins over `cmd` (60_exceptions.md R114), a code of the
table runs its operation, a reserved code does nothing. Also where the host's table probe puts a word.
-/

namespace Sys2Proof.Machine

/-- One issued command is one operation and one atomic state transition (30_encoding.md R46, 20_memory.md R36). -/
def issue (p : Ports) (s : State) : Host.Outcome State Fault Refusal :=
  if p.rst then execReset s
  else
    match decode p with
    | .instr i => exec i s
    | .rejected r => execRejected r s

/-- The sample the host issues next and the state without it: the oldest pending one, or, where the host issues nothing,
the idle ports (00_scope.md R3, 45_stats.md R109; log entry 1). -/
def nextCommand (s : State) : Ports × State :=
  match s.pending with
  | [] => (Ports.idle, s)
  | p :: rest => (p, { s with pending := rest })

/-- The state in which the word `w` of the opcode table is the command that the host issues next (log entries 1, 7). -/
def State.pushWord (s : State) (nbits w : Nat) : State :=
  { s with pending := portsOfWord nbits w :: s.pending }

end Sys2Proof.Machine
end

