-- ==== Sys2Proof/Machine/Step.lean ====
section
/-!
DEFINITION. One step: the host's next command is issued (00_scope.md R3, 20_memory.md R37).
-/

namespace Sys2Proof.Machine

/-- Issues the next command in the state without it (Machine/Issue.lean). -/
def step (s : State) : Host.Outcome State Fault Refusal :=
  issue (nextCommand s).1 (nextCommand s).2

/-- `s` with the word's command as the next one to be issued (log entries 1, 7). -/
def State.withFetchWord (s : State) (nbits w : Nat) : State := s.pushWord nbits w

end Sys2Proof.Machine
end

