-- ==== Sys2Proof/Machine/Transition.lean ====
section
/-!
DEFINITION. What the operations answer for ANY hashes and parameters at the operations' widths (00_scope.md R8: general claims
are made from the laws alone), put together from the per-instruction answers that the meanings use; and the output ports of
the machine.
-/

namespace Sys2Proof.Machine

/-- What an operation answers on an engine (30_encoding.md R47). -/
def answerOf (c : Config Widths.reference) (i : Instr) (g : Engine Widths.reference) : Answer Widths.reference :=
  match i with
  | .nop => nopAnswer g
  | .uph pc => uphAnswer c pc g
  | .predict pc => predictAnswer c pc g
  | .train pred actual pc size => trainAnswer c pred actual pc size g
  | .updstats pred actual pc => updstatsAnswer pred actual pc g
  | .rdentry idx => rdentryAnswer idx g

/-- The engine after an operation (20_memory.md R43). -/
def engineAfter (c : Config Widths.reference) (i : Instr) (g : Engine Widths.reference) : Engine Widths.reference :=
  (answerOf c i g).engine

/-- The result outputs an operation drives (30_encoding.md R46, R47). -/
def resultsOf (c : Config Widths.reference) (i : Instr) (g : Engine Widths.reference) : Results Widths.reference :=
  (answerOf c i g).results

/-- What one sample of the ports answers on an engine (30_encoding.md R46, R50, 70_reset_and_hazards.md R120). -/
def portsAnswer (c : Config Widths.reference) (p : Ports) (g : Engine Widths.reference) : Answer Widths.reference :=
  if p.rst then resetAnswer c
  else
    match decode p with
    | .instr i => answerOf c i g
    | .rejected r => rejectedAnswer r g

/-- The engine after one sample of the ports. -/
def portsEngine (c : Config Widths.reference) (p : Ports) (g : Engine Widths.reference) : Engine Widths.reference :=
  (portsAnswer c p g).engine

/-- The result outputs while one sample of the ports is issued. -/
def portsResults (c : Config Widths.reference) (p : Ports) (g : Engine Widths.reference) : Results Widths.reference :=
  (portsAnswer c p g).results

/-- The result outputs that `exec i s` drives (30_encoding.md R45, R46; log entry 2). -/
def outputs (i : Instr) (s : State) : Results Widths.reference := resultsOf Config.reference i s.engine

/-- All output ports (30_encoding.md R45). -/
structure OutPorts where
  results : Results Widths.reference
  total : Counter
  numCorrect : Counter
deriving DecidableEq, Repr

/-- What the host sees in `s`: the results of the operation that `step s` issues, which is what defines them (30_encoding.md
R45), and the two counters, which can be read at any time and stand as they are before that operation (45_stats.md R107;
log entry 2). -/
def State.outPorts (s : State) : OutPorts :=
  { results := portsResults Config.reference (nextCommand s).1 s.engine
    total := s.engine.total
    numCorrect := s.engine.numCorrect }

end Sys2Proof.Machine
end

