-- ==== Sys2Proof/Machine/Trace.lean ====
section
/-!
DEFINITION. The host's side: a trace of operations (30_encoding.md R55) and the load event, the macro LOAD (R56,
70_reset_and_hazards.md R124). The block knows neither; log entry 8.
-/

namespace Sys2Proof.Machine

/-- One line of a trace (30_encoding.md R55). -/
inductive TraceLine where
  | reset
  | op (i : Instr)
deriving DecidableEq, Repr

/-- The sample of the ports that a line issues. -/
def TraceLine.ports : TraceLine → Ports
  | .reset => Ports.reset
  | .op i => encode i

/-- The engine after one line of a trace. -/
def traceLineEngine (c : Config Widths.reference) (g : Engine Widths.reference) (l : TraceLine) : Engine Widths.reference := portsEngine c l.ports g

/-- The engine after a trace: the fold of the transitions in issue order (20_memory.md R37). -/
def traceEngine (c : Config Widths.reference) (ls : List TraceLine) (g : Engine Widths.reference) : Engine Widths.reference := ls.foldl (traceLineEngine c) g

/-- The results of the PREDICT inside a load event, after its UPH (70_reset_and_hazards.md R124). -/
def loadPrediction (c : Config Widths.reference) (pc : Pc) (g : Engine Widths.reference) : Results Widths.reference := predictResults c pc (uphEngine c pc g)

/-- The lines that `LOAD pc, actual, size` expands to on an engine; UPDSTATS only when the PREDICT hits
(30_encoding.md R56). -/
def loadLines (c : Config Widths.reference) (pc : Pc) (actual : Value) (size : Size) (g : Engine Widths.reference) : List TraceLine :=
  let r := loadPrediction c pc g
  [.op (.uph pc), .op (.predict pc)] ++ (if r.hit then [.op (.updstats r.value actual pc)] else [])
    ++ [.op (.train r.value actual pc size)]

/-- The engine after a load event (70_reset_and_hazards.md R124). -/
def loadEngine (c : Config Widths.reference) (pc : Pc) (actual : Value) (size : Size) (g : Engine Widths.reference) : Engine Widths.reference :=
  traceEngine c (loadLines c pc actual size g) g

end Sys2Proof.Machine
end

