-- ==== Sys2Proof/Safety.lean ====
section
/-!
DEFINITION. The invariants of a safe run (10_state.md section 6) and the relations that claims use.
-/

namespace Sys2Proof.Machine

variable {w : Widths}

/-- A slot of confidence 0 is EMPTY_ENTRY (10_state.md, after R18). -/
def Engine.EmptyIsDefault (g : Engine w) : Prop :=
  ∀ i, (tableRead g.apt i).confidence = 0 → tableRead g.apt i = Entry.empty

/-- Every slot that is not empty carries the tag of some pc (10_state.md R17). -/
def Engine.TagsFromPcs (c : Config w) (g : Engine w) : Prop :=
  ∀ i, (tableRead g.apt i).confidence ≠ 0 → ∃ pc, (tableRead g.apt i).tag = c.calcTag pc

/-- The invariant of the engine: a canonical table, empty slots at their default, tags made by the tag generator, and
`total >= numCorrect` (10_state.md R17, R18, section 6; log entry 3). -/
structure Engine.Inv (c : Config w) (g : Engine w) : Prop where
  table : Table.wf g.apt
  empties : g.EmptyIsDefault
  tags : g.TagsFromPcs c
  counters : g.numCorrect ≤ g.total

/-- Two entries that differ at most in `size`. -/
def Entry.SameButSize (e f : Entry w) : Prop :=
  e.tag = f.tag ∧ e.address = f.address ∧ e.confidence = f.confidence

/-- Two engines that differ at most in the `size` fields of their entries (44_train.md R103). -/
def Engine.SameButSize (g h : Engine w) : Prop :=
  g.phr = h.phr ∧ g.total = h.total ∧ g.numCorrect = h.numCorrect ∧
    ∀ i, (tableRead g.apt i).SameButSize (tableRead h.apt i)

/-- Two operations that differ at most in the `size` operand of a TRAIN. -/
def operationSameButSize (i j : Instr) : Prop :=
  match i with
  | .train pred actual pc _ => ∃ size, j = .train pred actual pc size
  | _ => j = i

/-- Two output samples that differ at most in `e_size`. -/
def Results.SameButSize (r q : Results w) : Prop := 
  ({ r with eSize := 0 } : Results w) = ({ q with eSize := 0 } : Results w)

/-- The sample carries an UPDSTATS: no reset request and code 100 (30_encoding.md R47). -/
def isUpdstats (p : Ports) : Bool := !p.rst && p.cmd == 4

/-- The engine after the same training call, repeated `n` times. -/
def trainTimes (c : Config w) (pred actual : Value) (pc : BitVec w.pcW) (size : BitVec w.sizeW) : Nat → Engine w → Engine w
  | 0, g => g
  | n + 1, g => trainTimes c pred actual pc size n (trainEngine c pred actual pc size g)

/-- The PHR after folding in a list of pcs, oldest first (40_path_history.md R67). -/
def phrAfter (c : Config w) (h : Phr) (pcs : List (BitVec w.pcW)) : Phr := pcs.foldl c.phUpdate h

end Sys2Proof.Machine
end

