-- ==== Sys2Proof/Certificates/Slice0/Obligations.lean ====
section
/-!
DEFINITION. The statements for the provers. Each docstring names the rule of spec/ it formalises, or says what is the model's
own choice in it.
-/

open Sys2Proof Sys2Proof.Machine

/-! ## Encoding -/

/-- Decoding what the encoder writes gives the operation back, every operand at every value, and every sample that passes the
checks of WellFormed.lean is what the encoder writes for the operation it decodes to. The codes are those of 30_encoding.md
R47 (the spec's own choice, D2); 0 on the unused ports is log entry 7. -/
def Obligations.EncodeAndDecodeAreInverse : Prop :=
  (∀ i : Instr, decode (encode i) = .instr i ∧ (encode i).rst = false) ∧
  ∀ p : Ports, p.wellFormed = true → ∃ i, decode p = .instr i ∧ encode i = p

/-- The codes of 30_encoding.md R47, read from table words, and the two reserved codes refused by the decoder (the codes are
the spec's own choice, D2). -/
def Obligations.TableWordsDecode : Prop :=
  decodeTableWord 8 0 = some .nop ∧
  decodeTableWord 8 1 = some (.uph 0) ∧
  decodeTableWord 8 2 = some (.predict 0) ∧
  decodeTableWord 8 3 = some (.train 0 0 0 0) ∧
  decodeTableWord 8 4 = some (.updstats 0 0 0) ∧
  decodeTableWord 8 5 = some (.rdentry 0) ∧
  decodeTableWord 8 6 = none ∧
  decodeTableWord 8 7 = none ∧
  decode { Ports.ofCmd 0b011 with pred := 0x2000, actual := 0x3000, pc := 0x1000, size := 4 } =
    .instr (.train 0x2000 0x3000 0x1000 4) ∧
  decode { Ports.ofCmd 0b101 with idx := 1023 } = .instr (.rdentry 1023)

/-- 30_encoding.md R48: a port that the operation does not use changes neither the resulting state nor any output, under any
configuration. -/
def Obligations.UnusedPortsIgnored : Prop :=
  ∀ (p q : Ports), p.SameUsed q →
    (∀ s : State, issue p s = issue q s) ∧
    ∀ (c : Config Widths.reference) (g : Engine Widths.reference), portsResults c p g = portsResults c q g

/-- The fields of the packed entry stand at the bits of the table, packing and unpacking are inverse, and EMPTY_ENTRY is the
all-zero vector (30_encoding.md section 4; the layout is the spec's own choice, decision D18). -/
def Obligations.PackedEntryLayout : Prop :=
  (∀ e : Entry Widths.reference, Entry.unpack e.pack = e ∧
    e.pack.extractLsb' 74 14 = e.tag ∧ e.pack.extractLsb' 10 64 = e.address ∧
    e.pack.extractLsb' 8 2 = e.confidence ∧ e.pack.extractLsb' 0 8 = e.size) ∧
  (∀ v : Packed, (Entry.unpack v).pack = v) ∧
  (Entry.empty : Entry Widths.reference).pack = 0

/-! ## Hashes (the reference instantiation, the spec's own choice D4 to D7, log entry 4) -/

/-- The low half XOR the high half as arithmetic on naturals (30_encoding.md section 5, decision D4). -/
def Obligations.PcfoldArithmetic : Prop :=
  ∀ pc : Pc, (pcfold pc).toNat = (pc.toNat % 2 ^ 32) ^^^ (pc.toNat / 2 ^ 32) ∧
    (pc.toNat < 2 ^ 32 → (pcfold pc).toNat = pc.toNat)

/-- The reference fold as arithmetic on naturals (40_path_history.md section 3, decision D5). -/
def Obligations.PhUpdateArithmetic : Prop :=
  ∀ (h : Phr) (pc : Pc), (Config.reference.phUpdate h pc).toNat =
    ((h.toNat * 16) % 2 ^ 32) ^^^ ((pcfold pc).toNat / 4)

/-- The reference indexer as arithmetic on naturals (41_index_tag.md section 1, decision D6), in range for every pc. -/
def Obligations.CalcIndexArithmetic : Prop :=
  ∀ (pc : Pc) (h : Phr),
    let x := (pcfold pc).toNat ^^^ h.toNat
    (Config.reference.calcIndex pc h).toNat = (x ^^^ (x >>> 10) ^^^ (x >>> 20) ^^^ (x >>> 30)) &&& 0x3FF ∧
    (Config.reference.calcIndex pc h).toNat ≤ 1023

/-- The reference tag generator as arithmetic on naturals (41_index_tag.md section 2, decision D7); a pc below 2^14 is its
own tag. -/
def Obligations.CalcTagArithmetic : Prop :=
  ∀ pc : Pc,
    let y := (pcfold pc).toNat
    (Config.reference.calcTag pc).toNat = (y ^^^ (y >>> 14) ^^^ (y >>> 28)) &&& 0x3FFF ∧
    (pc.toNat < 2 ^ 14 → (Config.reference.calcTag pc).toNat = pc.toNat)

/-- `fold10` is linear over XOR, so the index splits into the part of the pc and the part of the PHR
(41_index_tag.md section 1, decision D6). -/
def Obligations.IndexSplitsOverXor : Prop :=
  (∀ a b : BitVec 32, fold10 (a ^^^ b) = fold10 a ^^^ fold10 b) ∧
  ∀ (pc : Pc) (h : Phr), Config.reference.calcIndex pc h = fold10 (pcfold pc) ^^^ fold10 h

/-- The PHR depends on the last 8 pcs at most: from any two histories, folding in the same 8 pcs or more gives the same PHR
(40_path_history.md section 3, a consequence of decision D5). -/
def Obligations.HistoryWindowIsEight : Prop :=
  ∀ (pcs : List Pc) (h k : Phr), 8 ≤ pcs.length →
    phrAfter Config.reference h pcs = phrAfter Config.reference k pcs

/-- One pc folded in repeatedly settles after at most 8 updates (40_path_history.md section 3, a consequence of D5). -/
def Obligations.RepeatedPcSettles : Prop :=
  ∀ (h : Phr) (pc : Pc) (n : Nat), 8 ≤ n →
    phrAfter Config.reference h (List.replicate (n + 1) pc) = phrAfter Config.reference h (List.replicate n pc)

/-- What the index sees of a pc that was just folded in, `p XOR (p >> 2)`, is one-to-one in `p`
(40_path_history.md section 3, decision D5). -/
def Obligations.FoldedPcDoesNotCancel : Prop :=
  (∀ (h : Phr) (pc : Pc), Config.reference.calcIndex pc (Config.reference.phUpdate h pc) =
    fold10 ((h <<< 4) ^^^ (pcfold pc ^^^ (pcfold pc >>> 2)))) ∧
  ∀ p q : BitVec 32, p ^^^ (p >>> 2) = q ^^^ (q >>> 2) → p = q

/-- Two pcs with equal folds cannot be told apart (41_index_tag.md section 3; the folds are decision D4). -/
def Obligations.EqualFoldsIndistinguishable : Prop :=
  ∀ (pc pc' : Pc) (s : State), pcfold pc = pcfold pc' →
    exec (.uph pc) s = exec (.uph pc') s ∧ exec (.predict pc) s = exec (.predict pc') s ∧
    outputs (.predict pc) s = outputs (.predict pc') s ∧
    ∀ (pred actual : Value) (size : Size), exec (.train pred actual pc size) s = exec (.train pred actual pc' size) s

/-! ## The path history -/

/-- UPH folds pc into the PHR and does nothing else (40_path_history.md section 1). The fold is the reference phUpdate, and the
value 0x00000400 from PHR 0 is its value: both the spec's own choice (decision D5, log entry 4). The code 001 and the zero
outputs are decision D2. -/
def Obligations.UphWritesOnlyPhr : Prop :=
  (∀ p : Ports, p.cmd = 0b001 → decode p = .instr (.uph p.pc)) ∧
  (∀ (pc : Pc) (s : State), ∃ t, exec (.uph pc) s = .next t ∧
    t.engine.phr = Config.reference.phUpdate s.engine.phr pc ∧ t.engine.apt = s.engine.apt ∧
    t.engine.total = s.engine.total ∧ t.engine.numCorrect = s.engine.numCorrect ∧
    outputs (.uph pc) s = Results.zero ∧ t.pending = s.pending) ∧
  ∀ s : State, s.engine.phr = 0 → ∃ t, exec (.uph 0x1000) s = .next t ∧ t.engine.phr = 0x00000400

/-! ## Lookup, RDENTRY, PREDICT -/

/-- A hit is exactly equal tags and confidence 1, 2 or 3 (42_lookup.md section 1). That confidence 1 suffices rests on
CONF_THRESHOLD = 0, and the arbiter's explicit inputs on D24: the spec's own choices (decisions D8 and D24, log entry 4). The
names of the confidence states are those of 30_encoding.md section 4. -/
def Obligations.HitIsTagMatchAndConfidence : Prop :=
  (∀ (e : Entry Widths.reference) (t : Tag), queryHitMiss Config.reference e t = true ↔
    e.tag = t ∧ (e.confidence = 1 ∨ e.confidence = 2 ∨ e.confidence = 3)) ∧
  ∀ k : Confidence, (tierOf k = .empty ↔ k = 0) ∧ (tierOf k = .lowConf ↔ k = 1) ∧ (tierOf k = .medConf ↔ k = 2) ∧
    (tierOf k = .highConf ↔ k = 3)

/-- RDENTRY copies the slot to the outputs and changes nothing, with the worked example of 42_lookup.md section 2. That the read
is an operation is the spec's own choice (decision D20), as are its code and the zeros on the other outputs (D2), the size of
the example (D12, log entry 5) and its slot and tag (D6, D7, log entry 4). -/
def Obligations.RdentryCopiesSlot : Prop :=
  (∀ p : Ports, p.cmd = 0b101 → decode p = .instr (.rdentry p.idx)) ∧
  (∀ (idx : Index) (s : State), ∃ t, exec (.rdentry idx) s = .next t ∧
    t.engine = s.engine ∧ t.pending = s.pending ∧
    (let r := outputs (.rdentry idx) s
     r.eTag = (tableRead s.engine.apt idx).tag ∧ r.eAddress = (tableRead s.engine.apt idx).address ∧
     r.eConfidence = (tableRead s.engine.apt idx).confidence ∧ r.eSize = (tableRead s.engine.apt idx).size ∧
     r.hit = false ∧ r.value = 0)) ∧
  outputs (.rdentry 4) State.reset = Results.zero ∧
  ∃ s, exec (.train 0 0x2000 0x1000 8) State.reset = .next s ∧
    outputs (.rdentry 4) s = { (Results.zero : Results Widths.reference) with eTag := 0x1000, eAddress := 0x2000, eConfidence := 1, eSize := 8 }

/-- PREDICT reads the slot of pc under the PHR; on a hit it gives the stored address, on a miss 0; it writes no state of the
engine (43_predict.md section 1, with its worked example). The 0 on a miss is MISS_VALUE, the spec's own choice (decision D13,
log entry 4); so are the hashes (D6, D7, log entry 4), the threshold 0 (D8, log entry 4) and that no counter steps (D14). The
code 010 and the zeros on the other outputs are decision D2. -/
def Obligations.PredictReadsSlot : Prop :=
  (∀ p : Ports, p.cmd = 0b010 → decode p = .instr (.predict p.pc)) ∧
  (∀ (pc : Pc) (s : State), ∃ t, exec (.predict pc) s = .next t ∧
    (let e := tableRead s.engine.apt (Config.reference.calcIndex pc s.engine.phr)
     outputs (.predict pc) s = if e.tag = Config.reference.calcTag pc ∧ 0 < e.confidence.toNat
      then { Results.zero with hit := true, value := e.address } else Results.zero) ∧
    t.engine = s.engine ∧ t.pending = s.pending) ∧
  ∃ s, exec (.train 0 0x2000 0x1000 8) State.reset = .next s ∧
    (outputs (.predict 0x1000) s).hit = true ∧ (outputs (.predict 0x1000) s).value = 0x2000

/-- Repeating a PREDICT gives the same state and outputs (43_predict.md section 1; decision D14). -/
def Obligations.PredictRepeatsItself : Prop :=
  ∀ (pc : Pc) (s t : State), exec (.predict pc) s = .next t →
    exec (.predict pc) t = .next t ∧ outputs (.predict pc) t = outputs (.predict pc) s

/-- On a table with every slot empty each PREDICT misses, under any configuration and any PHR (70_reset_and_hazards.md section
2, 42_lookup.md section 1). A miss gives `value = MISS_VALUE` (43_predict.md section 1; that a miss has a value, and which, is
the spec's own choice, decision D13, log entry 4) and 0 on the outputs PREDICT does not define (30_encoding.md section 1, D2). -/
def Obligations.FreshTableMisses : Prop :=
  ∀ (w : Widths) (c : Config w) (pc : BitVec w.pcW) (g : Engine w), (∀ i, (tableRead g.apt i).confidence = 0) →
    predictResults c pc g = { Results.zero with value := c.missValue }

/-! ## Training -/

/-- The complete transition table of TRAIN, all eight rows (44_train.md section 4). The spec marks as its own choices: that
confidence 0 with a matching tag is an allocation (decision D9), that address, tag and size are kept on a decrement (D10) and
on a correct training (D11), and that the `size` operand exists and is stored (D12, log entry 5). Slot and tag are those of the reference hashes
(D6, D7, log entry 4). -/
def Obligations.TrainTransitionTable : Prop :=
  ∀ (pred actual : Value) (pc : Pc) (size : Size) (s : State),
    let i := Config.reference.calcIndex pc s.engine.phr
    let tag := Config.reference.calcTag pc
    let e := tableRead s.engine.apt i
    ∃ t, exec (.train pred actual pc size) s = .next t ∧
      let e' := tableRead t.engine.apt i
      (e.confidence = 0 → e' = { tag := tag, address := actual, confidence := 1, size := size }) ∧
      (e.confidence ≠ 0 → e.tag ≠ tag → e' = { tag := tag, address := actual, confidence := 1, size := size }) ∧
      (e.tag = tag → e.confidence = 1 → pred = actual → e' = { e with confidence := 2 }) ∧
      (e.tag = tag → e.confidence = 2 → pred = actual → e' = { e with confidence := 3 }) ∧
      (e.tag = tag → e.confidence = 3 → pred = actual → e' = { e with confidence := 3 }) ∧
      (e.tag = tag → e.confidence = 3 → pred ≠ actual → e' = { e with confidence := 2 }) ∧
      (e.tag = tag → e.confidence = 2 → pred ≠ actual → e' = { e with confidence := 1 }) ∧
      (e.tag = tag → e.confidence = 1 → pred ≠ actual →
        e' = { tag := e.tag, address := actual, confidence := 1, size := size })

/-- TRAIN writes no counter, not the PHR, and no slot other than that of pc; it gives no result (44_train.md section 5; decisions
D14 and D21). The slot is that of the reference hash (D6, log entry 4), the zero outputs are D2, and the queue is log entry 1. -/
def Obligations.TrainWritesOneSlot : Prop :=
  ∀ (pred actual : Value) (pc : Pc) (size : Size) (s : State), ∃ t,
    exec (.train pred actual pc size) s = .next t ∧
    t.engine.total = s.engine.total ∧ t.engine.numCorrect = s.engine.numCorrect ∧ t.engine.phr = s.engine.phr ∧
    (∀ j, j ≠ Config.reference.calcIndex pc s.engine.phr → tableRead t.engine.apt j = tableRead s.engine.apt j) ∧
    outputs (.train pred actual pc size) s = Results.zero ∧ t.pending = s.pending

/-- 44_train.md R93: the increment is clamped at 3, said of any number of steps; one step is the rule itself. -/
def Obligations.IncrementStepsClamp : Prop :=
  ∀ (n : Nat) (k : Confidence), (incrementConfidence^[n] k).toNat = min (k.toNat + n) 3

/-- The decrement is clamped at 0, said of any number of steps (44_train.md section 2; the clamp is the spec's own choice,
decision D28). The subtraction of naturals stops at 0. -/
def Obligations.DecrementStepsClamp : Prop :=
  ∀ (n : Nat) (k : Confidence), (decrementConfidence^[n] k).toNat = k.toNat - n

/-- After a TRAIN the slot carries the tag of pc and a confidence above 0, so a PREDICT issued next hits; for any hash
functions (44_train.md section 3, after R99). That the threshold is 0 is a hypothesis here (decision D8); the case split on
the arbiter's answer is decision D9, the step down by one D28. -/
def Obligations.TrainThenPredictHits : Prop :=
  ∀ (w : Widths) (c : Config w) (pred actual : Value) (pc : BitVec w.pcW) (size : BitVec w.sizeW) (g : Engine w), c.confThreshold = 0 →
    let h := trainEngine c pred actual pc size g
    (entryOf c pc h).tag = c.calcTag pc ∧ (entryOf c pc h).confidence ≠ 0 ∧ (predictResults c pc h).hit = true

/-- The document's first scenario (44_train.md section 6) for any hash functions and any PHR: an empty slot misses; a training
call allocates the actual value at confidence 1; the next prediction hits with it. It goes beyond the document in two points
that the spec marks as its own: an empty slot is allocated whatever its tag (44_train.md section 1, decision D9), and the record
stores the `size` operand (44_train.md section 2, D12, log entry 5). The 0 on the other outputs is D2. -/
def Obligations.AllocateThenHit : Prop :=
  ∀ (w : Widths) (c : Config w) (pred actual : Value) (pc : BitVec w.pcW) (size : BitVec w.sizeW) (g : Engine w), c.confThreshold = 0 →
    (entryOf c pc g).confidence = 0 →
    (predictResults c pc g).hit = false ∧
    let h := trainEngine c pred actual pc size g
    entryOf c pc h = { tag := c.calcTag pc, address := actual, confidence := 1, size := size } ∧
    predictResults c pc h = { Results.zero with hit := true, value := actual }

/-- The document's second scenario (44_train.md section 6) for any hash functions: correct training raises the confidence step
by step and caps it at 3. That it changes no other field is the spec's own choice (44_train.md section 3, R96; decision D11). -/
def Obligations.CorrectTrainingClimbs : Prop :=
  ∀ (w : Widths) (c : Config w) (v : Value) (pc : BitVec w.pcW) (size : BitVec w.sizeW) (n : Nat) (g : Engine w), c.confThreshold = 0 → hits c pc g = true →
    entryOf c pc (trainTimes c v v pc size n g) =
      { entryOf c pc g with confidence := BitVec.ofNat 2 (min ((entryOf c pc g).confidence.toNat + n) 3) }

/-- The document's third scenario for any hash functions: fewer wrong trainings than the confidence lower it by one each and
keep the other fields; as many as the confidence install the actual value (44_train.md sections 3 and 6). The kept fields are
the spec's own choice (decision D10), as is the stored `size` operand (D12, log entry 5). -/
def Obligations.WrongTrainingEvicts : Prop :=
  ∀ (w : Widths) (c : Config w) (pred actual : Value) (pc : BitVec w.pcW) (size : BitVec w.sizeW) (g : Engine w), c.confThreshold = 0 → pred ≠ actual →
    hits c pc g = true →
    (∀ n, n < (entryOf c pc g).confidence.toNat →
      entryOf c pc (trainTimes c pred actual pc size n g) =
        { entryOf c pc g with confidence := BitVec.ofNat 2 ((entryOf c pc g).confidence.toNat - n) }) ∧
    entryOf c pc (trainTimes c pred actual pc size (entryOf c pc g).confidence.toNat g) =
      { tag := c.calcTag pc, address := actual, confidence := 1, size := size }

/-- The `size` operand is stored only by an allocation (a miss, or a wrong prediction at the floor), for any widths and any
configuration; and the `size` fields and operand never influence the PHR, a counter, a tag, an address, a confidence, a hit or
a value, so engines that differ in `size` fields alone go on to differ in those alone (44_train.md section 5). The `size`
operand and its width are the spec's own choice (decision D12, log entry 5). -/
def Obligations.SizeIsInert : Prop :=
  (∀ (w : Widths) (c : Config w) (pred actual : Value) (pc : BitVec w.pcW) (size : BitVec w.sizeW) (g : Engine w),
    (entryOf c pc (trainEngine c pred actual pc size g)).size =
      if hits c pc g = true ∧ (pred = actual ∨ c.confThreshold < (entryOf c pc g).confidence.toNat - 1)
      then (entryOf c pc g).size else size) ∧
  ∀ (c : Config Widths.reference) (i j : Instr) (g h : Engine Widths.reference), operationSameButSize i j → g.SameButSize h →
    (engineAfter c i g).SameButSize (engineAfter c j h) ∧ (resultsOf c i g).SameButSize (resultsOf c j h)

/-! ## Counters and NOP -/

/-- UPDSTATS steps `total`, and `numCorrect` where pred equals actual, each saturating at 2^64 - 1; pc is ignored; table and PHR
are not written (45_stats.md section 1, with its worked example). The saturation and the counter width are the spec's own
choice (decision D14, log entry 5); the code 100 and the zero outputs are D2. -/
def Obligations.UpdstatsCounts : Prop :=
  (∀ p : Ports, p.cmd = 0b100 → decode p = .instr (.updstats p.pred p.actual p.pc)) ∧
  (∀ (pred actual : Value) (pc : Pc) (s : State), ∃ t, exec (.updstats pred actual pc) s = .next t ∧
    t.engine.total.toNat = min (s.engine.total.toNat + 1) (2 ^ 64 - 1) ∧
    t.engine.numCorrect.toNat =
      (if pred = actual then min (s.engine.numCorrect.toNat + 1) (2 ^ 64 - 1) else s.engine.numCorrect.toNat) ∧
    t.engine.phr = s.engine.phr ∧ t.engine.apt = s.engine.apt ∧
    outputs (.updstats pred actual pc) s = Results.zero ∧ t.pending = s.pending) ∧
  (∀ (pred actual : Value) (pc pc' : Pc) (s : State), exec (.updstats pred actual pc) s = exec (.updstats pred actual pc') s) ∧
  ∃ s t, exec (.updstats 0x2000 0x2000 0x1000) State.reset = .next s ∧ s.engine.total = 1 ∧ s.engine.numCorrect = 1 ∧
    exec (.updstats 0x2000 0x3000 0x1000) s = .next t ∧ t.engine.total = 2 ∧ t.engine.numCorrect = 1

/-- NOP and the reserved codes 110 and 111 change no state and give all-zero result outputs (45_stats.md section 4,
30_encoding.md section 3; the codes and what a reserved one does are the spec's own choice, D2 and D17, log entry 6). -/
def Obligations.NopAndReservedDoNothing : Prop :=
  (∀ p : Ports, p.cmd = 0b000 → decode p = .instr .nop) ∧
  (∀ s : State, exec .nop s = .next s ∧ outputs .nop s = Results.zero) ∧
  ∀ (p : Ports) (s : State), p.rst = false → (p.cmd = 0b000 ∨ p.cmd = 0b110 ∨ p.cmd = 0b111) →
    issue p s = .next s ∧ ∀ c : Config Widths.reference, portsResults c p s.engine = Results.zero

/-- Running any list of commands without a reset from any state: `total` has counted the UPDSTATS among them, saturating, and
`numCorrect` has grown by no more (45_stats.md section 1). The saturation and the counter width are decision D14 (log entry
5); the queue of commands is log entry 1. -/
def Obligations.TotalCountsUpdstats : Prop :=
  ∀ (ps : List Ports) (s : State), (∀ p ∈ ps, p.rst = false) → s.pending = ps →
    ∃ t : State, Host.Core.run Sys2Proof.core ps.length s = .next t ∧
      t.engine.total.toNat = min (s.engine.total.toNat + (ps.filter isUpdstats).length) (2 ^ 64 - 1) ∧
      s.engine.numCorrect.toNat ≤ t.engine.numCorrect.toNat ∧
      t.engine.numCorrect.toNat ≤ s.engine.numCorrect.toNat + (ps.filter isUpdstats).length

/-! ## Reset -/

/-- The values reset leaves (10_state.md section 8): as the state the machine starts in, and after a sample with `rst`, from
any state and whatever command comes with it, with the outputs 0 (70_reset_and_hazards.md section 1). PHR = 0 is the spec's
own choice (D15, log entry 4), as are the `rst` input (D16), the zero outputs (D2) and the `size` field (D12); the queue is the
model's (log entry 1). -/
def Obligations.ResetLeavesTheseValues : Prop :=
  State.reset.engine.phr = 0 ∧ State.reset.engine.total = 0 ∧ State.reset.engine.numCorrect = 0 ∧
  (∀ i, tableRead State.reset.engine.apt i = { tag := 0, address := 0, confidence := 0, size := 0 }) ∧
  State.reset.pending = [] ∧ State.reset.outPorts = { results := Results.zero, total := 0, numCorrect := 0 } ∧
  ∀ (p : Ports) (s : State), p.rst = true →
    issue p s = .next { engine := State.reset.engine, pending := s.pending } ∧
    ∀ c : Config Widths.reference, portsResults c p s.engine = Results.zero

/-- No step but a reset lets a slot become empty or a counter decrease, or changes the PHR other than by folding in a pc
(70_reset_and_hazards.md section 1; 45_stats.md section 1). It rests on the saturation D14 (log entry 5), the threshold 0 and
the reference fold (D8, D5, log entry 4) and the queue (log entry 1). -/
def Obligations.OnlyResetTakesBack : Prop :=
  ∀ s t : State, step s = .next t → (nextCommand s).1.rst = false →
    (∀ i, (tableRead s.engine.apt i).confidence ≠ 0 → (tableRead t.engine.apt i).confidence ≠ 0) ∧
    s.engine.total ≤ t.engine.total ∧ s.engine.numCorrect ≤ t.engine.numCorrect ∧
    (t.engine.phr ≠ s.engine.phr →
      t.engine.phr = Config.reference.phUpdate s.engine.phr (nextCommand s).1.pc)

/-! ## The whole machine -/

/-- A step runs the decoded operation: with a command pending it is exec of what the command decodes to, in the state
without that command, and the output ports show that operation's results; with none pending it is NOP (log entries 1, 2). -/
def Obligations.StepRunsDecoded : Prop :=
  (∀ (p : Ports) (rest : List Ports) (i : Instr) (s : State), s.pending = p :: rest → p.rst = false →
    decode p = .instr i → step s = exec i { s with pending := rest } ∧ s.outPorts.results = outputs i s) ∧
  ∀ s : State, s.pending = [] → step s = exec .nop s ∧ s.outPorts.results = outputs .nop s

/-- Every operation has a next state for all operand values in any state, and so has every step (60_exceptions.md section 1). That
a step takes the first command off the queue is the model's choice (log entry 1). -/
def Obligations.NothingFaults : Prop :=
  (∀ (i : Instr) (s : State), ∃ t, exec i s = .next t) ∧
  ∀ s : State, ∃ t, step s = .next t ∧ t.pending = s.pending.tail

/-- PREDICT, RDENTRY and NOP write nothing, UPH only the PHR, UPDSTATS only the counters, TRAIN only the slot of pc. Said of one
step of the whole machine: what a change of each part of the state implies about the command (20_memory.md section 5;
decisions D14 and D21; the codes are D2, the slot is that of the reference hash D6, log entry 4; the queue is log entry 1). -/
def Obligations.OnlyNamedWritersWrite : Prop :=
  ∀ s t : State, step s = .next t → (nextCommand s).1.rst = false →
    (t.engine.phr ≠ s.engine.phr → (nextCommand s).1.cmd = 0b001) ∧
    (t.engine.total ≠ s.engine.total ∨ t.engine.numCorrect ≠ s.engine.numCorrect → (nextCommand s).1.cmd = 0b100) ∧
    (t.engine.apt ≠ s.engine.apt → (nextCommand s).1.cmd = 0b011) ∧
    ∀ i, tableRead t.engine.apt i ≠ tableRead s.engine.apt i →
      (nextCommand s).1.cmd = 0b011 ∧ i = Config.reference.calcIndex (nextCommand s).1.pc s.engine.phr

/-- The result outputs are defined by the operation issued and hold no state of their own (30_encoding.md section 1): at every
point of every run they are the results of the command issued there, on the engine that the fold of the commands before it
leaves (20_memory.md section 4), and the counters' outputs show that engine's counters. Nothing else of the commands before
it can be seen (10_state.md section 7). The queue is log entry 1, what `outPorts` shows log entry 2. -/
def Obligations.OutputsHoldNoState : Prop :=
  ∀ (ps : List Ports) (p : Ports) (rest : List Ports) (s : State), s.pending = ps ++ p :: rest →
    let g := ps.foldl (fun g q => portsEngine Config.reference q g) s.engine
    ∃ t : State, Host.Core.run Sys2Proof.core ps.length s = .next t ∧ t.pending = p :: rest ∧
      t.outPorts = { results := portsResults Config.reference p g, total := g.total, numCorrect := g.numCorrect }

/-- The block keeps no record of an operation that writes nothing: whatever PREDICT answered, or RDENTRY or NOP, the next
operation does what it would have done without it, outputs included, so a TRAIN starts again from its own pc
(10_state.md section 7; that PREDICT writes no counter is decision D14, 20_memory.md section 5). -/
def Obligations.ReadsLeaveNoRecord : Prop :=
  ∀ (i j : Instr) (s t : State), (i = .nop ∨ (∃ pc, i = .predict pc) ∨ ∃ idx, i = .rdentry idx) →
    exec i s = .next t → exec j t = exec j s ∧ outputs j t = outputs j s

/-- The state after a sequence of commands is the fold of the transition functions over the state, in issue order
(20_memory.md section 4; the queue is log entry 1). -/
def Obligations.SequenceIsFold : Prop :=
  ∀ (ps : List Ports) (s : State), s.pending = ps →
    ∃ t : State, Host.Core.run Sys2Proof.core ps.length s = .next t ∧ t.pending = [] ∧
      t.engine = ps.foldl (fun g p => portsEngine Config.reference p g) s.engine

/-- The invariant: the table canonical, every empty slot equal to EMPTY_ENTRY, every present slot with the tag of some pc,
`total >= numCorrect` (10_state.md section 6). Every sample of the ports keeps it under every configuration, so whatever the tag
generator: TRAIN writes the tag that it makes of its pc. Every step of the machine, which runs the reference configuration, keeps
it too; there the tag part adds nothing, because every 14-bit value is the reference tag of some pc (decision D7, log entry 4).
The canonical form is log entry 3, the saturation D14 (log entry 5), the queue log entry 1. -/
def Obligations.StepKeepsEngineInv : Prop :=
  (∀ (c : Config Widths.reference) (p : Ports) (g : Engine Widths.reference), g.Inv c → (portsEngine c p g).Inv c) ∧
  ∀ s t : State, s.engine.Inv Config.reference → step s = .next t → t.engine.Inv Config.reference

/-- The engine after reset meets the invariant, under any configuration and in State.reset. -/
def Obligations.ResetMeetsEngineInv : Prop :=
  (∀ (w : Widths) (c : Config w), (Engine.resetWith c).Inv c) ∧ State.reset.engine.Inv Config.reference

/-- Canonical tables that read alike at every index are equal (log entry 3): the list holds no more than the 1024 slots. -/
def Obligations.CanonicalTablesReadAlike : Prop :=
  ∀ (w : Widths) (t u : Table w), Table.wf t → Table.wf u → (∀ i, tableRead t i = tableRead u i) → t = u

/-! ## The host's protocol -/

/-- What a load event does, for any hash functions: the PHR is folded once; the slot of pc under the new PHR carries its tag
at a confidence above 0; every other slot is unchanged; the counters step only when the prediction hit
(70_reset_and_hazards.md section 3, 30_encoding.md section 7; what TRAIN and UPDSTATS do in it: 44_train.md section 3, 45_stats.md
section 1). The macro is the spec's own choice (decision D25, log entry 8), as are the saturating counters written by UPDSTATS
alone (D14, log entry 5), the stored `size` operand (D12, log entry 5), the PHR written by UPH alone (D21), the case split on the
arbiter's answer (D9) and the value that a miss hands on to TRAIN, which ignores it (D13, D29). -/
def Obligations.LoadEventEffect : Prop :=
  ∀ (c : Config Widths.reference) (pc : Pc) (actual : Value) (size : Size) (g : Engine Widths.reference), c.confThreshold = 0 →
    let h := c.phUpdate g.phr pc
    let i := c.calcIndex pc h
    let r := loadPrediction c pc g
    let g' := loadEngine c pc actual size g
    g'.phr = h ∧
    (tableRead g'.apt i).tag = c.calcTag pc ∧ (tableRead g'.apt i).confidence ≠ 0 ∧
    (∀ j, j ≠ i → tableRead g'.apt j = tableRead g.apt j) ∧
    (r.hit = false → g'.total = g.total ∧ g'.numCorrect = g.numCorrect ∧
      tableRead g'.apt i = { tag := c.calcTag pc, address := actual, confidence := 1, size := size }) ∧
    (r.hit = true → g'.total = satinc64 g.total ∧
      g'.numCorrect = if (tableRead g.apt i).address = actual then satinc64 g.numCorrect else g.numCorrect)

/-- A UPH between the PREDICT and the TRAIN of a load: where it moves the slot, TRAIN leaves the entry that predicted as it
was, for any hash functions (70_reset_and_hazards.md section 3; that only UPH writes the PHR is decision D21). -/
def Obligations.InterveningUphLosesTraining : Prop :=
  ∀ (w : Widths) (c : Config w) (q pc : BitVec w.pcW) (pred actual : Value) (size : BitVec w.sizeW) (g : Engine w),
    slotOf c pc (uphEngine c q g) ≠ slotOf c pc g →
    tableRead (trainEngine c pred actual pc size (uphEngine c q g)).apt (slotOf c pc g) = entryOf c pc g
end

