-- ==== Sys2Proof/Laws/Flags.lean ====
section
/-!
SUPPORT. What the correctness test, the saturating steps and the arbiter do.
-/

namespace Sys2Proof.Machine

variable {w : Widths}

@[simp] theorem isCorrectPred_iff {n : Nat} (pred actual : Value) (pc : BitVec n) :
    isCorrectPred pred actual pc = true ↔ pred = actual := by simp [isCorrectPred]

theorem incrementConfidence_toNat (k : Confidence) : (incrementConfidence k).toNat = min (k.toNat + 1) 3 := by
  simp only [incrementConfidence, confMax, BitVec.toNat_ofNat]; omega

theorem decrementConfidence_toNat (k : Confidence) : (decrementConfidence k).toNat = k.toNat - 1 := by
  simp only [decrementConfidence, BitVec.toNat_ofNat]; omega

theorem incrementConfidence_ne_zero (k : Confidence) : incrementConfidence k ≠ 0 := fun h => by
  have := incrementConfidence_toNat k
  rw [h, show (0 : Confidence).toNat = 0 from rfl] at this
  omega

theorem satinc64_toNat {n : Nat} (c : BitVec n) : (satinc64 c).toNat = min (c.toNat + 1) (2 ^ n - 1) := by
  have := c.isLt
  simp only [satinc64, BitVec.toNat_ofNat]
  exact Nat.mod_eq_of_lt (by omega)

/-- The bound of a counter, a pc and a size at the reference widths, as numerals. -/
theorem counter_lt (c : Counter) : c.toNat < 2 ^ 64 := c.isLt
theorem pc_lt (pc : Pc) : pc.toNat < 2 ^ 64 := pc.isLt
theorem size_lt (n : Size) : n.toNat < 2 ^ 8 := n.isLt

/-- The arbiter hits exactly when the tags are equal and the confidence is above the threshold. -/
theorem queryHitMiss_iff (c : Config w) (e : Entry w) (t : Tag) :
    queryHitMiss c e t = true ↔ e.tag = t ∧ c.confThreshold < e.confidence.toNat := by
  simp [queryHitMiss]

end Sys2Proof.Machine
end

