-- ==== Sys2Proof/Laws/PerInstr.lean ====
section
/-!
SUPPORT. The per-instruction family `Encoded`: the encoder writes a well-formed sample of the ports, with no reset request.
-/

namespace Sys2Proof.Laws.Encoded

/-- The ports that issue the operation pass the checks of WellFormed.lean. -/
def Statement (i : Instr) : Prop := (encode i).wellFormed = true

theorem nop : Statement .nop := by
  simp [Statement, encode, Ports.ofCmd, Ports.wellFormed, Ports.cmdAssigned, Ports.unusedZero]
theorem uph (pc : Pc) : Statement (.uph pc) := by
  simp [Statement, encode, Ports.ofCmd, Ports.wellFormed, Ports.cmdAssigned, Ports.unusedZero]
theorem predict (pc : Pc) : Statement (.predict pc) := by
  simp [Statement, encode, Ports.ofCmd, Ports.wellFormed, Ports.cmdAssigned, Ports.unusedZero]
theorem train (pred actual : Value) (pc : Pc) (size : Size) : Statement (.train pred actual pc size) := by
  simp [Statement, encode, Ports.ofCmd, Ports.wellFormed, Ports.cmdAssigned, Ports.unusedZero]
theorem updstats (pred actual : Value) (pc : Pc) : Statement (.updstats pred actual pc) := by
  simp [Statement, encode, Ports.ofCmd, Ports.wellFormed, Ports.cmdAssigned, Ports.unusedZero]
theorem rdentry (idx : Index) : Statement (.rdentry idx) := by
  simp [Statement, encode, Ports.ofCmd, Ports.wellFormed, Ports.cmdAssigned, Ports.unusedZero]

end Sys2Proof.Laws.Encoded
end

