-- ==== Sys2Proof/Laws/Predict.lean ====
section
/-!
SUPPORT. What the outputs of PREDICT are, said once for a hit and once for a miss (43_predict.md R87, R88).
-/

namespace Sys2Proof.Machine

variable {w : Widths}

/-- The arbiter's answer for a pc: the tags are equal and the confidence is above the threshold. -/
theorem hits_iff (c : Config w) (pc : BitVec w.pcW) (g : Engine w) :
    hits c pc g = true ↔
      (entryOf c pc g).tag = c.calcTag pc ∧ c.confThreshold < (entryOf c pc g).confidence.toNat :=
  queryHitMiss_iff ..

theorem predictResults_hit (c : Config w) (pc : BitVec w.pcW) (g : Engine w) (h : hits c pc g = true) :
    predictResults c pc g = { Results.zero with hit := true, value := (entryOf c pc g).address } := by
  simp [predictResults, h]

theorem predictResults_miss (c : Config w) (pc : BitVec w.pcW) (g : Engine w) (h : hits c pc g = false) :
    predictResults c pc g = { Results.zero with hit := false, value := c.missValue } := by
  simp [predictResults, h]

/-- The `hit` output is the arbiter's answer. -/
@[simp] theorem predictResults_hit_eq (c : Config w) (pc : BitVec w.pcW) (g : Engine w) :
    (predictResults c pc g).hit = hits c pc g := by
  cases h : hits c pc g
  · rw [predictResults_miss c pc g h]
  · rw [predictResults_hit c pc g h]

end Sys2Proof.Machine
end

