-- ==== Sys2Proof/Laws/State.lean ====
section
/-!
SUPPORT. One lemma per field per update of the state and the engine, so that no later proof unfolds a record update.
-/

namespace Sys2Proof.Machine

variable {w : Widths}

@[simp] theorem State.finish_engine (s : State) (a : Answer Widths.reference) : (s.finish a).engine = a.engine := rfl
@[simp] theorem State.finish_pending (s : State) (a : Answer Widths.reference) : (s.finish a).pending = s.pending := rfl

@[simp] theorem silent_engine (g : Engine w) : (Answer.silent g).engine = g := rfl
@[simp] theorem silent_results (g : Engine w) : (Answer.silent g).results = Results.zero := rfl

@[simp] theorem engineAfter_nop (c : Config Widths.reference) (g : Engine Widths.reference) : engineAfter c .nop g = g := rfl
@[simp] theorem engineAfter_uph (c : Config Widths.reference) (pc : Pc) (g : Engine Widths.reference) :
    engineAfter c (.uph pc) g = uphEngine c pc g := rfl
@[simp] theorem engineAfter_predict (c : Config Widths.reference) (pc : Pc) (g : Engine Widths.reference) :
    engineAfter c (.predict pc) g = g := rfl
@[simp] theorem engineAfter_train (c : Config Widths.reference) (pred actual : Value) (pc : Pc) (size : Size)
    (g : Engine Widths.reference) : engineAfter c (.train pred actual pc size) g = trainEngine c pred actual pc size g := rfl
@[simp] theorem engineAfter_updstats (c : Config Widths.reference) (pred actual : Value) (pc : Pc) (g : Engine Widths.reference) :
    engineAfter c (.updstats pred actual pc) g = updstatsEngine pred actual pc g := rfl
@[simp] theorem engineAfter_rdentry (c : Config Widths.reference) (idx : Index) (g : Engine Widths.reference) :
    engineAfter c (.rdentry idx) g = g := rfl

@[simp] theorem resultsOf_nop (c : Config Widths.reference) (g : Engine Widths.reference) :
    resultsOf c .nop g = Results.zero := rfl
@[simp] theorem resultsOf_uph (c : Config Widths.reference) (pc : Pc) (g : Engine Widths.reference) :
    resultsOf c (.uph pc) g = Results.zero := rfl
@[simp] theorem resultsOf_predict (c : Config Widths.reference) (pc : Pc) (g : Engine Widths.reference) :
    resultsOf c (.predict pc) g = predictResults c pc g := rfl
@[simp] theorem resultsOf_train (c : Config Widths.reference) (pred actual : Value) (pc : Pc) (size : Size)
    (g : Engine Widths.reference) : resultsOf c (.train pred actual pc size) g = Results.zero := rfl
@[simp] theorem resultsOf_updstats (c : Config Widths.reference) (pred actual : Value) (pc : Pc) (g : Engine Widths.reference) :
    resultsOf c (.updstats pred actual pc) g = Results.zero := rfl
@[simp] theorem resultsOf_rdentry (c : Config Widths.reference) (idx : Index) (g : Engine Widths.reference) :
    resultsOf c (.rdentry idx) g = rdentryResults idx g := rfl

@[simp] theorem State.pushWord_engine (s : State) (n v : Nat) : (s.pushWord n v).engine = s.engine := rfl
@[simp] theorem State.pushWord_pending (s : State) (n v : Nat) :
    (s.pushWord n v).pending = portsOfWord n v :: s.pending := rfl

@[simp] theorem uphEngine_phr (c : Config w) (pc : BitVec w.pcW) (g : Engine w) :
    (uphEngine c pc g).phr = c.phUpdate g.phr pc := rfl
@[simp] theorem uphEngine_apt (c : Config w) (pc : BitVec w.pcW) (g : Engine w) : (uphEngine c pc g).apt = g.apt := rfl
@[simp] theorem uphEngine_total (c : Config w) (pc : BitVec w.pcW) (g : Engine w) : (uphEngine c pc g).total = g.total := rfl
@[simp] theorem uphEngine_numCorrect (c : Config w) (pc : BitVec w.pcW) (g : Engine w) :
    (uphEngine c pc g).numCorrect = g.numCorrect := rfl

@[simp] theorem trainEngine_phr (c : Config w) (pred actual : Value) (pc : BitVec w.pcW) (size : BitVec w.sizeW) (g : Engine w) :
    (trainEngine c pred actual pc size g).phr = g.phr := rfl
@[simp] theorem trainEngine_apt (c : Config w) (pred actual : Value) (pc : BitVec w.pcW) (size : BitVec w.sizeW) (g : Engine w) :
    (trainEngine c pred actual pc size g).apt =
      tableWrite g.apt (slotOf c pc g) (trainEntry c pred actual pc size (entryOf c pc g)) := rfl
@[simp] theorem trainEngine_total (c : Config w) (pred actual : Value) (pc : BitVec w.pcW) (size : BitVec w.sizeW) (g : Engine w) :
    (trainEngine c pred actual pc size g).total = g.total := rfl
@[simp] theorem trainEngine_numCorrect (c : Config w) (pred actual : Value) (pc : BitVec w.pcW) (size : BitVec w.sizeW) (g : Engine w) :
    (trainEngine c pred actual pc size g).numCorrect = g.numCorrect := rfl

@[simp] theorem updstatsEngine_phr (pred actual : Value) (pc : BitVec w.pcW) (g : Engine w) :
    (updstatsEngine pred actual pc g).phr = g.phr := rfl
@[simp] theorem updstatsEngine_apt (pred actual : Value) (pc : BitVec w.pcW) (g : Engine w) :
    (updstatsEngine pred actual pc g).apt = g.apt := rfl
@[simp] theorem updstatsEngine_total (pred actual : Value) (pc : BitVec w.pcW) (g : Engine w) :
    (updstatsEngine pred actual pc g).total = satinc64 g.total := rfl
@[simp] theorem updstatsEngine_numCorrect (pred actual : Value) (pc : BitVec w.pcW) (g : Engine w) :
    (updstatsEngine pred actual pc g).numCorrect =
      if isCorrectPred pred actual pc then satinc64 g.numCorrect else g.numCorrect := rfl

@[simp] theorem resetWith_phr (c : Config w) : (Engine.resetWith c).phr = c.phrReset := rfl
@[simp] theorem resetWith_apt (c : Config w) : (Engine.resetWith c).apt = [] := rfl
@[simp] theorem resetWith_total (c : Config w) : (Engine.resetWith c).total = 0 := rfl
@[simp] theorem resetWith_numCorrect (c : Config w) : (Engine.resetWith c).numCorrect = 0 := rfl

@[simp] theorem slotOf_eq (c : Config w) (pc : BitVec w.pcW) (g : Engine w) : slotOf c pc g = c.calcIndex pc g.phr := rfl

@[simp] theorem Entry.empty_tag : (Entry.empty : Entry w).tag = 0 := rfl
@[simp] theorem Entry.empty_address : (Entry.empty : Entry w).address = 0 := rfl
@[simp] theorem Entry.empty_confidence : (Entry.empty : Entry w).confidence = 0 := rfl
@[simp] theorem Entry.empty_size : (Entry.empty : Entry w).size = 0 := rfl

@[simp] theorem allocateNew_tag (c : Config w) (actual : Value) (pc : BitVec w.pcW) (size : BitVec w.sizeW) :
    (allocateNew c actual pc size).tag = c.calcTag pc := rfl
@[simp] theorem allocateNew_address (c : Config w) (actual : Value) (pc : BitVec w.pcW) (size : BitVec w.sizeW) :
    (allocateNew c actual pc size).address = actual := rfl
@[simp] theorem allocateNew_confidence (c : Config w) (actual : Value) (pc : BitVec w.pcW) (size : BitVec w.sizeW) :
    (allocateNew c actual pc size).confidence = 1 := rfl
@[simp] theorem allocateNew_size (c : Config w) (actual : Value) (pc : BitVec w.pcW) (size : BitVec w.sizeW) :
    (allocateNew c actual pc size).size = size := rfl

@[simp] theorem reference_pcW : Widths.reference.pcW = 64 := rfl
@[simp] theorem reference_sizeW : Widths.reference.sizeW = 8 := rfl
@[simp] theorem reference_statW : Widths.reference.statW = 64 := rfl
@[simp] theorem reference_phShift : Config.reference.phShift = 4 := rfl
@[simp] theorem reference_pcDrop : Config.reference.pcDrop = 2 := rfl
theorem reference_phUpdate : Config.reference.phUpdate = phUpdateRef 4 2 := rfl
theorem reference_calcIndex : Config.reference.calcIndex = calcIndexRef := rfl
theorem reference_calcTag : Config.reference.calcTag = calcTagRef := rfl
@[simp] theorem reference_threshold : Config.reference.confThreshold = 0 := rfl
@[simp] theorem reference_missValue : Config.reference.missValue = 0 := rfl
@[simp] theorem reference_phrReset : Config.reference.phrReset = 0 := rfl

end Sys2Proof.Machine
end

