-- ==== Sys2Proof/Laws/Step.lean ====
section
/-!
SUPPORT. What exec, issue and step answer, said once: the answers of Machine/Transition.lean under the reference configuration;
and what a sample of the ports answers.
-/

namespace Sys2Proof.Machine

/-- Every instruction completes with its answer. -/
theorem exec_eq (i : Instr) (s : State) : exec i s = .next (s.finish (answerOf Config.reference i s.engine)) := by
  cases i <;> rfl

/-- Every sample of the ports completes with its answer. -/
theorem issue_eq (p : Ports) (s : State) : issue p s = .next (s.finish (portsAnswer Config.reference p s.engine)) := by
  unfold issue portsAnswer
  split
  · rfl
  · cases decode p with
    | instr i => exact exec_eq i s
    | rejected r => rfl

/-- Every step completes with the answer of the issued command, which is taken off. -/
theorem step_eq (s : State) :
    step s = .next ((nextCommand s).2.finish (portsAnswer Config.reference (nextCommand s).1 s.engine)) := by
  have h : (nextCommand s).2.engine = s.engine := by unfold nextCommand; split <;> rfl
  unfold step
  rw [issue_eq, h]

/-- A reset request answers with the engine after reset and no result. -/
theorem portsAnswer_reset (c : Config Widths.reference) (p : Ports) (g : Engine Widths.reference) (h : p.rst = true) :
    portsAnswer c p g = .silent (Engine.resetWith c) := by simp [portsAnswer, h, resetAnswer]

/-- A sample that decodes to an operation answers as the operation does. -/
theorem portsAnswer_instr (c : Config Widths.reference) (p : Ports) (i : Instr) (g : Engine Widths.reference)
    (h : p.rst = false) (hd : decode p = .instr i) : portsAnswer c p g = answerOf c i g := by simp [portsAnswer, h, hd]

/-- A reserved code answers as NOP does. -/
theorem portsAnswer_rejected (c : Config Widths.reference) (p : Ports) (r : Reject) (g : Engine Widths.reference)
    (h : p.rst = false) (hd : decode p = .rejected r) : portsAnswer c p g = nopAnswer g := by
  cases r; simp [portsAnswer, h, hd, rejectedAnswer, nopAnswer]

/-- A run of `n + 1` steps of any machine is one step and then a run of `n`. -/
theorem run_of_step (M : Host.Core) (n : Nat) (s t : M.State) (h : M.step s = .next t) :
    M.run (n + 1) s = M.run n t := by
  rw [Host.Core.run, h]

/-- The same of this machine, in its own types. -/
theorem run_succ (n : Nat) (s t : State) (h : step s = .next t) :
    Host.Core.run Sys2Proof.core (n + 1) s = Host.Core.run Sys2Proof.core n t :=
  run_of_step Sys2Proof.core n s t h

@[simp] theorem nextCommand_pending (s : State) : (nextCommand s).2.pending = s.pending.tail := by
  unfold nextCommand; split <;> simp_all

@[simp] theorem nextCommand_engine (s : State) : (nextCommand s).2.engine = s.engine := by
  unfold nextCommand; split <;> rfl

end Sys2Proof.Machine
end

