-- ==== Sys2Proof/Laws/Table.lean ====
section
/-!
SUPPORT. What TableRead and TableWrite do (20_memory.md R30, R31), and that every table operation keeps the canonical form.
The read laws hold of every table, canonical or not.
-/

namespace Sys2Proof.Machine

variable {w : Widths}

@[simp] theorem tableRead_nil (i : Index) : tableRead ([] : Table w) i = Entry.empty := rfl

@[simp] theorem tableRead_cons (j : Index) (e : Entry w) (rest : Table w) (i : Index) :
    tableRead ((j, e) :: rest) i = if j = i then e else tableRead rest i := rfl

/-- The erased slot reads as EMPTY_ENTRY, every other slot as before. -/
theorem tableRead_tableErase (t : Table w) (i j : Index) :
    tableRead (tableErase t i) j = if i = j then Entry.empty else tableRead t j := by
  induction t with
  | nil => simp [tableErase]
  | cons c rest ih =>
    obtain ⟨k, e⟩ := c
    unfold tableErase at ih ⊢
    by_cases hk : k = i <;> by_cases hj : i = j <;> simp_all

/-- An insertion into a table without that index reads as the entry there, and as before elsewhere. -/
theorem tableRead_tableInsert (t : Table w) (i : Index) (e : Entry w) (j : Index) (h : ∀ c ∈ t, c.1 ≠ i) :
    tableRead (tableInsert t i e) j = if i = j then e else tableRead t j := by
  induction t with
  | nil => rfl
  | cons c rest ih =>
    obtain ⟨k, f⟩ := c
    have hk : k ≠ i := h (k, f) (by simp)
    have hr : ∀ c ∈ rest, c.1 ≠ i := fun c hc => h c (by simp [hc])
    unfold tableInsert
    split
    · rfl
    · by_cases hj : i = j
      · subst hj; simp [ih hr, hk]
      · simp [ih hr, hj]

theorem mem_tableErase {t : Table w} {i : Index} {c : Index × Entry w} :
    c ∈ tableErase t i ↔ c ∈ t ∧ c.1 ≠ i := by
  simp [tableErase]

/-- TableRead after TableWrite: the written slot holds the entry, every other slot is unchanged. -/
theorem tableRead_tableWrite (t : Table w) (i : Index) (e : Entry w) (j : Index) :
    tableRead (tableWrite t i e) j = if i = j then e else tableRead t j := by
  unfold tableWrite
  split
  · rename_i he; rw [tableRead_tableErase, he]
  · rw [tableRead_tableInsert _ _ _ _ fun c hc => (mem_tableErase.mp hc).2, tableRead_tableErase]
    split <;> rfl

@[simp] theorem tableRead_tableWrite_same (t : Table w) (i : Index) (e : Entry w) :
    tableRead (tableWrite t i e) i = e := by simp [tableRead_tableWrite]

theorem tableRead_tableWrite_other (t : Table w) (i j : Index) (e : Entry w) (h : i ≠ j) :
    tableRead (tableWrite t i e) j = tableRead t j := by simp [tableRead_tableWrite, h]

theorem mem_tableInsert {t : Table w} {i : Index} {e : Entry w} {c : Index × Entry w} :
    c ∈ tableInsert t i e ↔ c = (i, e) ∨ c ∈ t := by
  induction t with
  | nil => simp [tableInsert]
  | cons d rest ih =>
    obtain ⟨j, f⟩ := d
    unfold tableInsert
    split
    · simp
    · simp only [List.mem_cons, ih]; tauto

theorem tableErase_wf {t : Table w} (h : Table.wf t) (i : Index) : Table.wf (tableErase t i) :=
  ⟨h.1.filter _, fun c hc => h.2 c (mem_tableErase.mp hc).1⟩

theorem tableInsert_wf {t : Table w} (h : Table.wf t) (i : Index) (e : Entry w) (hi : ∀ c ∈ t, c.1 ≠ i)
    (he : e ≠ Entry.empty) : Table.wf (tableInsert t i e) := by
  refine ⟨?_, ?_⟩
  · have hp := h.1
    clear h
    induction t with
    | nil => simp [tableInsert]
    | cons c rest ih =>
      obtain ⟨j, f⟩ := c
      rw [List.pairwise_cons] at hp
      have hj : j ≠ i := hi (j, f) (by simp)
      have hr : ∀ c ∈ rest, c.1 ≠ i := fun c hc => hi c (by simp [hc])
      unfold tableInsert
      split
      · rename_i hlt
        refine List.pairwise_cons.mpr ⟨fun c hc => ?_, List.pairwise_cons.mpr hp⟩
        rcases List.mem_cons.mp hc with rfl | hc
        · exact hlt
        · exact BitVec.lt_trans hlt (hp.1 c hc)
      · rename_i hlt
        refine List.pairwise_cons.mpr ⟨fun c hc => ?_, ih hr hp.2⟩
        rcases mem_tableInsert.mp hc with rfl | hc
        · show j < i
          bv_omega
        · exact hp.1 c hc
  · intro c hc
    rcases mem_tableInsert.mp hc with rfl | hc
    · exact he
    · exact h.2 c hc

/-- TableWrite keeps the canonical form. -/
theorem tableWrite_wf {t : Table w} (h : Table.wf t) (i : Index) (e : Entry w) : Table.wf (tableWrite t i e) := by
  unfold tableWrite
  split
  · exact tableErase_wf h i
  · rename_i he
    exact tableInsert_wf (tableErase_wf h i) i e (fun c hc => (mem_tableErase.mp hc).2) he

/-- The table after reset is canonical. -/
theorem reset_table_wf : Table.wf State.reset.engine.apt := by
  constructor <;> simp [State.reset, Engine.resetWith]

end Sys2Proof.Machine
end

