-- ==== Sys2Proof/Laws/Train.lean ====
section
/-!
SUPPORT. What the training state machine can answer, said once (44_train.md R90).
-/

namespace Sys2Proof.Machine

variable {w : Widths}

/-- The outcomes of a training call: reinforce, decrement above the floor, or allocate. -/
theorem trainEntry_cases (c : Config w) (pred actual : Value) (pc : BitVec w.pcW) (size : BitVec w.sizeW) (e : Entry w) :
    (queryHitMiss c e (c.calcTag pc) = true ∧ pred = actual ∧
      trainEntry c pred actual pc size e = { e with confidence := incrementConfidence e.confidence }) ∨
    (queryHitMiss c e (c.calcTag pc) = true ∧ pred ≠ actual ∧ c.confThreshold < e.confidence.toNat - 1 ∧
      trainEntry c pred actual pc size e = { e with confidence := decrementConfidence e.confidence }) ∨
    ((queryHitMiss c e (c.calcTag pc) = false ∨ (pred ≠ actual ∧ e.confidence.toNat - 1 ≤ c.confThreshold)) ∧
      trainEntry c pred actual pc size e = allocateNew c actual pc size) := by
  by_cases hq : queryHitMiss c e (c.calcTag pc) = true
  · by_cases hp : pred = actual
    · exact .inl ⟨hq, hp, by simp [trainEntry, hq, hp]⟩
    · by_cases hf : e.confidence.toNat - 1 ≤ c.confThreshold
      · exact .inr (.inr ⟨.inr ⟨hp, hf⟩, by simp [trainEntry, hq, hp, hf]⟩)
      · exact .inr (.inl ⟨hq, hp, by omega, by simp [trainEntry, hq, hp, hf]⟩)
  · exact .inr (.inr ⟨.inl (by simpa using hq), by simp [trainEntry, hq]⟩)

/-- The slot of pc after TRAIN. -/
@[simp] theorem entryOf_trainEngine (c : Config w) (pred actual : Value) (pc : BitVec w.pcW) (size : BitVec w.sizeW) (g : Engine w) :
    entryOf c pc (trainEngine c pred actual pc size g) = trainEntry c pred actual pc size (entryOf c pc g) := by
  show tableRead (tableWrite g.apt (slotOf c pc g) _) (slotOf c pc g) = _
  exact tableRead_tableWrite_same ..

end Sys2Proof.Machine
end

