-- ==== Sys2Proof/Tests/Slice0.lean ====
section
/-!
SUPPORT. Tests. Expected results come from the tables of spec/ named beside them. Each `test_witness_<Statement>` shows that
the hypotheses of an obligation can be met together.
-/

namespace Sys2Proof.Tests

open Sys2Proof Sys2Proof.Machine

/-- The state an outcome leads to, if it leads to one. -/
def stateOf (o : Host.Outcome State Fault Refusal) : Option State :=
  match o with
  | .next s => some s
  | .fault _ => none
  | .refused _ => none

/-- A state with the given PHR and table, counters 0, no command pending. -/
def mk (phr : Phr) (apt : Table Widths.reference) : State :=
  { engine := { phr := phr, apt := apt, total := 0, numCorrect := 0 }, pending := [] }

/-- The entry of the spec's examples at a given confidence: tag 0x1000, address 0x2000, size 8 (95_test_vectors.md S1). -/
def ex (k : Confidence) : Entry Widths.reference := { tag := 0x1000, address := 0x2000, confidence := k, size := 8 }

/-- PHR 0 and the example entry in slot 4, where pc 0x1000 indexes (41_index_tag.md R73). -/
def st (k : Confidence) : State := mk 0 [(4, ex k)]

/-! Well-formed samples: one ill-formed sample for each check of WellFormed.lean. -/

theorem test_wellFormed_train : (encode (.train 1 2 3 4)).wellFormed = true := by decide
theorem test_illFormed_reset : Ports.reset.wellFormed = false := by decide
theorem test_illFormed_reserved_110 : (Ports.ofCmd 0b110).wellFormed = false := by decide
theorem test_illFormed_reserved_111 : (Ports.ofCmd 0b111).wellFormed = false := by decide
theorem test_illFormed_nop_pc : ({ Ports.ofCmd 0b000 with pc := 5 } : Ports).wellFormed = false := by decide
theorem test_illFormed_uph_pred : ({ Ports.ofCmd 0b001 with pred := 5 } : Ports).wellFormed = false := by decide
theorem test_illFormed_predict_size : ({ Ports.ofCmd 0b010 with size := 5 } : Ports).wellFormed = false := by decide
theorem test_illFormed_train_idx : ({ Ports.ofCmd 0b011 with idx := 5 } : Ports).wellFormed = false := by decide
theorem test_illFormed_updstats_size : ({ Ports.ofCmd 0b100 with size := 5 } : Ports).wellFormed = false := by decide
theorem test_illFormed_rdentry_actual : ({ Ports.ofCmd 0b101 with actual := 5 } : Ports).wellFormed = false := by decide

/-! Decoding: every code of 30_encoding.md R47 written out, with operands on their ports. -/

theorem test_decode_nop : decode (Ports.ofCmd 0b000) = .instr .nop := by decide
theorem test_decode_uph : decode { Ports.ofCmd 0b001 with pc := 0x1000 } = .instr (.uph 0x1000) := by decide
theorem test_decode_predict : decode { Ports.ofCmd 0b010 with pc := 0x1000 } = .instr (.predict 0x1000) := by decide
theorem test_decode_train :
    decode { Ports.ofCmd 0b011 with pred := 0x2000, actual := 0x3000, pc := 0x1000, size := 4 } =
      .instr (.train 0x2000 0x3000 0x1000 4) := by decide
theorem test_decode_updstats :
    decode { Ports.ofCmd 0b100 with pred := 0x2000, actual := 0x3000, pc := 0x1000 } =
      .instr (.updstats 0x2000 0x3000 0x1000) := by decide
theorem test_decode_rdentry : decode { Ports.ofCmd 0b101 with idx := 1023 } = .instr (.rdentry 1023) := by decide
theorem test_decode_110 : decode (Ports.ofCmd 0b110) = .rejected (.reservedCode 0b110) := by decide
theorem test_decode_111 : decode (Ports.ofCmd 0b111) = .rejected (.reservedCode 0b111) := by decide

/-! Hash values: 40_path_history.md R69, 41_index_tag.md R73 and R77, 95_test_vectors.md 2.1 to 2.3. -/

theorem test_pcfold : pcfold (0x00007FFF12345678 : Pc) = 0x12342987 := by decide
theorem test_phUpdate : Config.reference.phUpdate 0x12345678 0xDEADBEEF = 0x14EE083B := by decide
theorem test_phUpdate_top : Config.reference.phUpdate 0xFFFFFFFF 0x1000 = 0xFFFFFBF0 := by decide
theorem test_calcIndex : Config.reference.calcIndex 0xDEADBEEF 0x12345678 = 551 := by decide
theorem test_calcIndex_ones : Config.reference.calcIndex 0 0xFFFFFFFF = 1020 := by decide
theorem test_calcTag : Config.reference.calcTag 0xDEADBEEF = 0x0454 := by decide
theorem test_calcTag_wide : Config.reference.calcTag 0x7FFF12345678 = 0x2156 := by decide

/-! Parameters: the defaults of 00_scope.md R7, row by row. -/

theorem test_widths : (Widths.reference.pcW, Widths.reference.sizeW, Widths.reference.statW, Widths.reference.entryW) =
    (64, 8, 64, 88) := by decide
theorem test_parameters : (Config.reference.confThreshold, Config.reference.phShift, Config.reference.pcDrop,
    Config.reference.missValue, Config.reference.phrReset) = (0, 4, 2, 0, 0) := by decide
/-- The widths and shifts are read: a block with 4-bit counters and 2 shifted bits (00_scope.md R7, 40_path_history.md R67). -/
theorem test_other_parameters :
    (updstatsEngine 1 1 0 ({ phr := 0, apt := [], total := 15, numCorrect := 14 } : Engine { statW := 4 })).total = 15 ∧
    (updstatsEngine 1 1 0 ({ phr := 0, apt := [], total := 15, numCorrect := 14 } : Engine { statW := 4 })).numCorrect = 15 ∧
    ({ Config.reference with phShift := 2 } : Config Widths.reference).phUpdate 1 0 = 4 := by decide

/-! Packed entries: 95_test_vectors.md 2.6, "Packed forms". -/

theorem test_pack : ({ tag := 0x0004, address := 0xBBBB, confidence := 1, size := 4 } : Entry Widths.reference).pack =
    0x0010000000000002EEED04 := by decide
theorem test_unpack : Entry.unpack 0x4000000000000000800308 = ex 3 := by decide

/-! One step of each operation. -/

/-- 95_test_vectors.md 2.9. -/
theorem test_nop : (stateOf (exec .nop (st 1))) = some (st 1) := by decide
/-- 95_test_vectors.md 2.9: code 111 as NOP. -/
theorem test_reserved : (stateOf (issue (Ports.ofCmd 0b111) (st 1))) = some (st 1) := by decide
/-- 40_path_history.md R69. -/
theorem test_uph : (stateOf (exec (.uph 0x1000) (mk 0x12345678 []))) = some (mk 0x23456380 []) := by decide
/-- 40_path_history.md R69: the fold of the pc is 1, dropped by the shift. -/
theorem test_uph_dropped : (stateOf (exec (.uph 0x100000000) (st 2))) = some (st 2) := by decide
/-- 43_predict.md section 2, row 3. -/
theorem test_predict_hit : stateOf (exec (.predict 0x1000) (st 1)) = some (st 1) ∧
    outputs (.predict 0x1000) (st 1) = { Results.zero with hit := true, value := 0x2000 } := by decide
/-- 43_predict.md section 2, row 4: the tag rejects 0x4 in slot 4. -/
theorem test_predict_wrongTag : outputs (.predict 0x4) (st 3) = Results.zero := by decide
/-- 95_test_vectors.md 2.6: a wrong prediction at the floor installs the new value and size. -/
theorem test_train_floor :
    (stateOf (exec (.train 0x2000 0x3000 0x1000 4) (st 1))).map (·.engine.apt) =
      some [(4, { tag := 0x1000, address := 0x3000, confidence := 1, size := 4 })] := by decide
/-- 95_test_vectors.md 2.8, row 4: `total` saturates, `numCorrect` still counts. -/
theorem test_updstats_saturates :
    (stateOf (exec (.updstats 1 1 0)
      { st 1 with engine := { (st 1).engine with total := 0xFFFFFFFFFFFFFFFF, numCorrect := 5 } })).map
        (fun t => (t.engine.total, t.engine.numCorrect)) = some (0xFFFFFFFFFFFFFFFF, 6) := by decide
/-- 95_test_vectors.md 2.8, row 2, read on the output ports of the next state. -/
theorem test_updstats_wrong :
    (stateOf (exec (.updstats 0x2000 0x3000 0x1000)
      { st 1 with engine := { (st 1).engine with total := 1, numCorrect := 1 } })).map
        (fun t => (t.outPorts.total, t.outPorts.numCorrect)) = some (2, 1) := by decide
/-- 95_test_vectors.md 2.9: slot 1023. -/
theorem test_rdentry :
    outputs (.rdentry 1023) (mk 0 [(1023, { tag := 0x3FFF, address := 1, confidence := 3, size := 255 })]) =
      { (Results.zero : Results Widths.reference) with eTag := 0x3FFF, eAddress := 1, eConfidence := 3, eSize := 255 } := by decide
/-- 43_predict.md section 2, row 3, on the output ports as the step issues the pending PREDICT. -/
theorem test_outPorts : ({ st 1 with pending := [encode (.predict 0x1000)] } : State).outPorts =
    { results := { Results.zero with hit := true, value := 0x2000 }, total := 0, numCorrect := 0 } := by decide
/-- 95_test_vectors.md 2.9: with `rst` the TRAIN is not performed. -/
theorem test_reset_wins :
    (stateOf (issue { Ports.ofCmd 0b011 with rst := true, actual := 7 } (st 3))) = some State.reset := by decide
/-- The word of a row, run as the first step after reset (30_encoding.md R47). -/
theorem test_first_step : (stateOf (step (State.reset.withFetchWord 8 3))).map (·.engine.apt) =
    some [(0, { tag := 0, address := 0, confidence := 1, size := 0 })] := by decide
/-- 95_test_vectors.md 2.6, tag-0 corner: a matching tag at confidence 0 is Case B. -/
theorem test_train_tag_zero :
    (stateOf (exec (.train 7 7 0 1) (mk 0 []))).map (·.engine.apt) =
      some [(0, { tag := 0, address := 7, confidence := 1, size := 1 })] := by decide
/-- 95_test_vectors.md P2, event 7: the load event hits in slot 336 and counts once. -/
theorem test_load_event :
    loadEngine Config.reference 0x1000 0x2000 8 { phr := 0x44444400, apt := [(336, ex 1)], total := 0, numCorrect := 0 } =
      { phr := 0x44444400, apt := [(336, ex 2)], total := 1, numCorrect := 1 } := by decide
/-- 30_encoding.md R52: the state after allocation. -/
theorem test_tier_lowConf : tierOf confInit = .lowConf := by decide

/-! Witnesses: the hypotheses of the obligations can be met. -/

theorem test_witness_EncodeAndDecodeAreInverse :
    (encode (.rdentry 1023)).wellFormed = true ∧ (encode .nop).wellFormed = true ∧
      (encode (.train 1 2 3 255)).wellFormed = true := by decide
theorem test_witness_UnusedPortsIgnored :
    Ports.SameUsed { Ports.ofCmd 0b100 with pred := 1, actual := 2, pc := 3 }
      { Ports.ofCmd 0b100 with pred := 1, actual := 2, pc := 4, idx := 9 } := ⟨rfl, rfl, rfl, rfl⟩
theorem test_witness_PcfoldArithmetic : (0xFFFFFFFF : Pc).toNat < 2 ^ 32 := by decide
theorem test_witness_CalcTagArithmetic : (0x3FFF : Pc).toNat < 2 ^ 14 := by decide
theorem test_witness_HistoryWindowIsEight : 8 ≤ ([0, 4, 8, 12, 16, 20, 24, 28] : List Pc).length := by decide
theorem test_witness_RepeatedPcSettles : 8 ≤ 8 := by decide
theorem test_witness_FoldedPcDoesNotCancel : (5 : BitVec 32) ^^^ (5 >>> 2) = 4 := by decide
theorem test_witness_EqualFoldsIndistinguishable : pcfold (0x1000 : Pc) = pcfold (0x0000000100001001 : Pc) := by decide
theorem test_witness_UphWritesOnlyPhr : State.reset.engine.phr = 0 ∧ (Ports.ofCmd 0b001).cmd = 0b001 := by decide
theorem test_witness_codes : (Ports.ofCmd 0b010).cmd = 0b010 ∧ (Ports.ofCmd 0b100).cmd = 0b100 ∧
    (Ports.ofCmd 0b101).cmd = 0b101 := by decide
theorem test_witness_PredictRepeatsItself : ∃ t, exec (.predict 0x1000) (st 1) = .next t := ⟨_, rfl⟩
theorem test_witness_FreshTableMisses :
    ∀ i, (tableRead (Engine.resetWith Config.reference).apt i).confidence = 0 := fun _ => rfl
/-- One state for each of the eight rows, at pc 0x1000 with slot 4. -/
theorem test_witness_TrainTransitionTable :
    (entryOf Config.reference 0x1000 (mk 0 []).engine).confidence = 0 ∧
    ((entryOf Config.reference 0x4 (st 3).engine).confidence ≠ 0 ∧
      (entryOf Config.reference 0x4 (st 3).engine).tag ≠ Config.reference.calcTag 0x4) ∧
    ∀ k : Confidence, (entryOf Config.reference 0x1000 (st k).engine).tag = Config.reference.calcTag 0x1000 ∧
      (entryOf Config.reference 0x1000 (st k).engine).confidence = k := by decide
theorem test_witness_threshold_zero : Config.reference.confThreshold = 0 := by decide
theorem test_witness_AllocateThenHit : Config.reference.confThreshold = 0 ∧
    (entryOf Config.reference 0x1000 (mk 0 []).engine).confidence = 0 := by decide
theorem test_witness_CorrectTrainingClimbs : Config.reference.confThreshold = 0 ∧
    hits Config.reference 0x1000 (st 1).engine = true := by decide
theorem test_witness_WrongTrainingEvicts : Config.reference.confThreshold = 0 ∧ (0x2000 : Value) ≠ 0x3000 ∧
    hits Config.reference 0x1000 (st 3).engine = true ∧
    2 < (entryOf Config.reference 0x1000 (st 3).engine).confidence.toNat := by decide
theorem test_witness_SizeIsInert :
    operationSameButSize (.train 1 2 3 4) (.train 1 2 3 5) ∧
    (st 1).engine.SameButSize (mk 0 [(4, { ex 1 with size := 2 })]).engine := by
  refine ⟨⟨5, rfl⟩, rfl, rfl, rfl, fun i => ?_⟩
  show (tableRead [(4, ex 1)] i).SameButSize (tableRead [(4, { ex 1 with size := 2 })] i)
  by_cases h : 4#10 = i <;> simp [tableRead, h, Entry.SameButSize]
theorem test_witness_NopAndReservedDoNothing : (Ports.ofCmd 0b110).rst = false ∧
    (Ports.ofCmd 0b110).cmd = 0b110 ∧ (Ports.ofCmd 0b111).cmd = 0b111 ∧ Ports.idle.cmd = 0b000 := by decide
theorem test_witness_TotalCountsUpdstats :
    (∀ p ∈ [encode (.updstats 1 1 0), encode (.uph 4)], p.rst = false) ∧
    ([encode (.updstats 1 1 0), encode (.uph 4)].filter isUpdstats).length = 1 ∧
    ({ st 1 with pending := [encode (.updstats 1 1 0), encode (.uph 4)] } : State).pending =
      [encode (.updstats 1 1 0), encode (.uph 4)] := by decide
theorem test_witness_SequenceIsFold :
    ({ st 1 with pending := [Ports.reset, encode (.uph 4)] } : State).pending = [Ports.reset, encode (.uph 4)] := by decide
theorem test_witness_ResetLeavesTheseValues : Ports.reset.rst = true := by decide
theorem test_witness_OnlyResetTakesBack :
    (∃ t, step { st 3 with pending := [encode (.uph 0x1000)] } = .next t ∧ t.engine.phr ≠ (st 3).engine.phr) ∧
    (nextCommand { st 3 with pending := [encode (.uph 0x1000)] }).1.rst = false ∧
    (tableRead (st 3).engine.apt 4).confidence ≠ 0 := ⟨⟨_, rfl, by decide⟩, rfl, by decide⟩
theorem test_witness_ReadsLeaveNoRecord :
    (∃ t, exec (.predict 0x1000) (st 3) = .next t) ∧ (outputs (.predict 0x1000) (st 3)).hit = true := ⟨⟨_, rfl⟩, rfl⟩
theorem test_witness_OutputsHoldNoState :
    ({ st 1 with pending := [encode (.uph 4), Ports.reset] ++ encode (.predict 0x1000) :: [] } : State).pending =
      [encode (.uph 4), Ports.reset] ++ encode (.predict 0x1000) :: [] := rfl
theorem test_witness_StepRunsDecoded :
    ({ st 3 with pending := [encode (.predict 4)] } : State).pending = encode (.predict 4) :: [] ∧
    (encode (.predict 4)).rst = false ∧ decode (encode (.predict 4)) = .instr (.predict 4) ∧
    State.reset.pending = [] := by decide
/-- A step that changes each part of the state: the PHR, the counters, the table. -/
theorem test_witness_OnlyNamedWritersWrite :
    (∃ t, step { st 3 with pending := [encode (.uph 0x1000)] } = .next t ∧ t.engine.phr ≠ (st 3).engine.phr) ∧
    (∃ t, step { st 3 with pending := [encode (.updstats 1 1 0)] } = .next t ∧
      t.engine.total ≠ (st 3).engine.total ∧ t.engine.numCorrect ≠ (st 3).engine.numCorrect) ∧
    (∃ t, step { st 3 with pending := [encode (.train 1 2 0x1000 8)] } = .next t ∧
      t.engine.apt ≠ (st 3).engine.apt ∧ tableRead t.engine.apt 4 ≠ tableRead (st 3).engine.apt 4) :=
  ⟨⟨_, rfl, by decide⟩, ⟨_, rfl, by decide, by decide⟩, ⟨_, rfl, by decide, by decide⟩⟩
theorem test_witness_StepKeepsEngineInv :
    (st 1).engine.Inv Config.reference ∧ ∃ t, step (st 1) = .next t := by
  refine ⟨⟨by decide, fun i => ?_, fun i _ => ⟨0x1000, ?_⟩, by decide⟩, ⟨_, rfl⟩⟩
  · show (tableRead [(4, ex 1)] i).confidence = 0 → tableRead [(4, ex 1)] i = Entry.empty
    by_cases h : 4#10 = i <;> simp [tableRead, h, ex]
  · rename_i h
    change (tableRead [(4, ex 1)] i).confidence ≠ 0 at h
    show (tableRead [(4, ex 1)] i).tag = _
    by_cases h4 : 4#10 = i
    · subst h4; decide
    · simp [tableRead, h4, Entry.empty] at h
/-- A configuration with one tag for all pcs: an engine that meets the invariant under it, and one that does not. -/
theorem test_witness_StepKeepsEngineInv_tags :
    (Engine.resetWith { Config.reference with calcTag := fun _ => 5 }).Inv { Config.reference with calcTag := fun _ => 5 } ∧
    ¬ (st 1).engine.TagsFromPcs { Config.reference with calcTag := fun _ => 5 } := by
  refine ⟨⟨by decide, fun _ _ => rfl, fun i h => absurd rfl h, by decide⟩, fun h => ?_⟩
  obtain ⟨_, h⟩ := h 4 (by decide)
  change (0x1000 : Tag) = 5 at h
  exact absurd h (by decide)
theorem test_witness_CanonicalTablesReadAlike :
    Table.wf [(4, ex 1), (1023, ex 3)] ∧
      ∀ i, tableRead [(4, ex 1), (1023, ex 3)] i = tableRead [(4, ex 1), (1023, ex 3)] i :=
  ⟨by decide, fun _ => rfl⟩
/-- A load event that misses (95_test_vectors.md P2, event 1) and one that hits (event 7). -/
theorem test_witness_LoadEventEffect : Config.reference.confThreshold = 0 ∧
    (loadPrediction Config.reference 0x1000 (mk 0 []).engine).hit = false ∧
    (loadPrediction Config.reference 0x1000 (mk 0x44444400 [(336, ex 1)]).engine).hit = true := by decide
/-- 95_test_vectors.md 2.10. -/
theorem test_witness_InterveningUphLosesTraining :
    slotOf Config.reference 0x1000 (uphEngine Config.reference 0x1000 (st 1).engine) = 5 ∧
    slotOf Config.reference 0x1000 (st 1).engine = 4 := by decide

end Sys2Proof.Tests
end

namespace Sys2Proof.Machine

/-! ## Samples that agree on the ports their code uses (30_encoding.md R48)

The decoder already drops every unused port, with one exception: it hands `pc` to UPDSTATS, whose answer does not depend on
it (44_train.md R92, 45_stats.md R105). -/

/-- R92: pc is an operand of UPDSTATS for symmetry only. -/
theorem updstatsAnswer_pc_irrelevant {w : Widths} (pred actual : Value) (pc pc' : BitVec w.pcW) (g : Engine w) :
    updstatsAnswer pred actual pc g = updstatsAnswer pred actual pc' g := rfl

/-- Such samples decode alike, or both to an UPDSTATS with the same `pred` and `actual`. -/
theorem decode_eq_or_updstats_of_sameUsed {p q : Ports} (h : p.SameUsed q) :
    decode p = decode q ∨
      ∃ pred actual pc pc', decode p = .instr (.updstats pred actual pc) ∧
        decode q = .instr (.updstats pred actual pc') := by
  obtain ⟨-, hcmd, hused⟩ := h
  unfold decode
  rw [← hcmd]
  generalize p.cmd.toNat = code at hused ⊢
  match code, hused with
  | 0, _ => exact .inl rfl
  | 1, hpc => exact .inl (congrArg (Decoded.instr ∘ Instr.uph) hpc)
  | 2, hpc => exact .inl (congrArg (Decoded.instr ∘ Instr.predict) hpc)
  | 3, ⟨hpred, hactual, hpc, hsize⟩ => left; simp only [hpred, hactual, hpc, hsize]
  | 4, ⟨hpred, hactual⟩ => exact .inr ⟨p.pred, p.actual, p.pc, q.pc, rfl, by simp only [hpred, hactual]⟩
  | 5, hidx => exact .inl (congrArg (Decoded.instr ∘ Instr.rdentry) hidx)
  | _ + 6, _ => exact .inl rfl

/-- Such samples get the same answer, the engine as well as the results. -/
theorem portsAnswer_eq_of_sameUsed {p q : Ports} (h : p.SameUsed q) (c : Config Widths.reference)
    (g : Engine Widths.reference) : portsAnswer c p g = portsAnswer c q g := by
  have hrst : p.rst = q.rst := h.1
  obtain hdec | ⟨pred, actual, pc, pc', hp, hq⟩ := decode_eq_or_updstats_of_sameUsed h
  · unfold portsAnswer
    rw [hrst, hdec]
  · cases hr : q.rst with
    | true => rw [portsAnswer_reset c p g (hrst.trans hr), portsAnswer_reset c q g hr]
    | false =>
      rw [portsAnswer_instr c p _ g (hrst.trans hr) hp, portsAnswer_instr c q _ g hr hq]
      exact updstatsAnswer_pc_irrelevant pred actual pc pc' g

/-- Settles O3: `issue` and `portsResults` are the two parts of one answer, and that answer is the same. -/
theorem unusedPortsIgnored : Obligations.UnusedPortsIgnored := by
  intro p q h
  refine ⟨fun s => ?_, fun c g => ?_⟩
  · rw [issue_eq, issue_eq, portsAnswer_eq_of_sameUsed h]
  · exact congrArg Answer.results (portsAnswer_eq_of_sameUsed h c g)

end Sys2Proof.Machine

namespace Sys2Proof.Machine

/-! ## The confidence rule iterated (44_train.md R93) -/

/-- Settles O22, by induction on the number of increments: one more increment of `min (k + n) 3` is `min (k + n + 1) 3`. -/
theorem incrementStepsClamp : Obligations.IncrementStepsClamp := by
  intro n k
  induction n with
  | zero =>
    have hk : k.toNat < 4 := k.isLt
    rw [Function.iterate_zero_apply]
    omega
  | succ n ih =>
    rw [Function.iterate_succ_apply', incrementConfidence_toNat, ih]
    omega

end Sys2Proof.Machine

namespace Sys2Proof.Machine

/-! ## The decoder and the encoder (30_encoding.md R47, R50)

What each assigned code decodes to, said once; the encoder is its inverse on the well-formed samples. -/

theorem decode_of_cmd_nop {p : Ports} (h : p.cmd = 0b000) : decode p = .instr .nop := by simp [decode, h]

theorem decode_of_cmd_uph {p : Ports} (h : p.cmd = 0b001) : decode p = .instr (.uph p.pc) := by simp [decode, h]

theorem decode_of_cmd_predict {p : Ports} (h : p.cmd = 0b010) : decode p = .instr (.predict p.pc) := by
  simp [decode, h]

theorem decode_of_cmd_train {p : Ports} (h : p.cmd = 0b011) :
    decode p = .instr (.train p.pred p.actual p.pc p.size) := by simp [decode, h]

theorem decode_of_cmd_updstats {p : Ports} (h : p.cmd = 0b100) :
    decode p = .instr (.updstats p.pred p.actual p.pc) := by simp [decode, h]

theorem decode_of_cmd_rdentry {p : Ports} (h : p.cmd = 0b101) : decode p = .instr (.rdentry p.idx) := by
  simp [decode, h]

/-- R50: the two codes without a row. -/
theorem decode_of_cmd_reserved {p : Ports} (h : p.cmd = 0b110 ∨ p.cmd = 0b111) :
    decode p = .rejected (.reservedCode p.cmd) := by
  obtain h | h := h <;> simp [decode, h]

/-- R47: the eight codes. -/
theorem cmd_cases (k : Cmd) :
    k = 0b000 ∨ k = 0b001 ∨ k = 0b010 ∨ k = 0b011 ∨ k = 0b100 ∨ k = 0b101 ∨ k = 0b110 ∨ k = 0b111 := by
  revert k
  decide

@[simp] theorem decode_encode (i : Instr) : decode (encode i) = .instr i := by
  cases i <;> rfl

@[simp] theorem encode_rst (i : Instr) : (encode i).rst = false := by
  cases i <;> rfl

/-- R47: the six assigned codes. -/
theorem assigned_cmd_cases (k : Cmd) : k.toNat < 6 →
    k = 0b000 ∨ k = 0b001 ∨ k = 0b010 ∨ k = 0b011 ∨ k = 0b100 ∨ k = 0b101 := by
  revert k
  decide

/-- Code by code: the ports the code does not use are 0, so the sample is the one the encoder writes. -/
theorem exists_encode_eq_of_wellFormed {p : Ports} (h : p.wellFormed = true) :
    ∃ i, decode p = .instr i ∧ encode i = p := by
  obtain ⟨rst, cmd, pc, pred, actual, size, idx⟩ := p
  simp only [Ports.wellFormed, Ports.cmdAssigned, Ports.unusedZero, Bool.and_eq_true, Bool.not_eq_true'] at h
  obtain ⟨⟨rfl, hassigned⟩, hzero⟩ := h
  rcases assigned_cmd_cases cmd (of_decide_eq_true hassigned) with rfl | rfl | rfl | rfl | rfl | rfl <;>
    exact ⟨_, rfl, by simp_all [encode, Ports.ofCmd]⟩

/-- Settles O1: `decode_encode` one way, `exists_encode_eq_of_wellFormed` the other. -/
theorem encodeAndDecodeAreInverse : Obligations.EncodeAndDecodeAreInverse :=
  ⟨fun i => ⟨decode_encode i, encode_rst i⟩, fun _ h => exists_encode_eq_of_wellFormed h⟩

/-- Settles O2: ten closed samples, run through the decoder. -/
theorem tableWordsDecode : Obligations.TableWordsDecode := by
  unfold Obligations.TableWordsDecode
  decide

end Sys2Proof.Machine

namespace Sys2Proof.Machine

/-! ## One equation per outcome of TRAIN (44_train.md R90, R96 to R100)

The four cases of the training state machine, and what every outcome has in common: the tag of pc and a confidence above 0,
under any threshold. -/

variable {w : Widths}

theorem trainEntry_of_miss {c : Config w} {pc : BitVec w.pcW} {e : Entry w}
    (h : queryHitMiss c e (c.calcTag pc) = false) (pred actual : Value) (size : BitVec w.sizeW) :
    trainEntry c pred actual pc size e = allocateNew c actual pc size := by
  simp [trainEntry, h]

theorem trainEntry_of_correct {c : Config w} {pc : BitVec w.pcW} {e : Entry w}
    (h : queryHitMiss c e (c.calcTag pc) = true) (v : Value) (size : BitVec w.sizeW) :
    trainEntry c v v pc size e = { e with confidence := incrementConfidence e.confidence } := by
  simp [trainEntry, h]

theorem trainEntry_of_wrong {c : Config w} {pc : BitVec w.pcW} {e : Entry w} {pred actual : Value}
    (h : queryHitMiss c e (c.calcTag pc) = true) (hne : pred ≠ actual)
    (hfloor : c.confThreshold < e.confidence.toNat - 1) (size : BitVec w.sizeW) :
    trainEntry c pred actual pc size e = { e with confidence := decrementConfidence e.confidence } := by
  simp [trainEntry, h, hne, Nat.not_le.mpr hfloor]

theorem trainEntry_of_wrong_at_floor {c : Config w} {pc : BitVec w.pcW} {e : Entry w} {pred actual : Value}
    (h : queryHitMiss c e (c.calcTag pc) = true) (hne : pred ≠ actual)
    (hfloor : e.confidence.toNat - 1 ≤ c.confThreshold) (size : BitVec w.sizeW) :
    trainEntry c pred actual pc size e = allocateNew c actual pc size := by
  simp [trainEntry, h, hne, hfloor]

@[simp] theorem trainEntry_tag (c : Config w) (pred actual : Value) (pc : BitVec w.pcW) (size : BitVec w.sizeW)
    (e : Entry w) : (trainEntry c pred actual pc size e).tag = c.calcTag pc := by
  obtain ⟨hq, -, heq⟩ | ⟨hq, -, -, heq⟩ | ⟨-, heq⟩ := trainEntry_cases c pred actual pc size e <;> rw [heq]
  · exact ((queryHitMiss_iff ..).mp hq).1
  · exact ((queryHitMiss_iff ..).mp hq).1
  · rfl

/-- A decrement stops above the floor, so no outcome is an empty slot, whatever the threshold. -/
theorem trainEntry_confidence_ne_zero (c : Config w) (pred actual : Value) (pc : BitVec w.pcW) (size : BitVec w.sizeW)
    (e : Entry w) : (trainEntry c pred actual pc size e).confidence ≠ 0 := by
  obtain ⟨-, -, heq⟩ | ⟨-, -, hfloor, heq⟩ | ⟨-, heq⟩ := trainEntry_cases c pred actual pc size e <;> rw [heq]
  · exact incrementConfidence_ne_zero _
  · intro (hzero : decrementConfidence e.confidence = 0)
    have hnat := decrementConfidence_toNat e.confidence
    rw [hzero, show (0 : Confidence).toNat = 0 from rfl] at hnat
    omega
  · rw [allocateNew_confidence]
    decide

/-- The slot of pc after TRAIN, read by its index. -/
theorem tableRead_trainEngine_slot (c : Config w) (pred actual : Value) (pc : BitVec w.pcW) (size : BitVec w.sizeW)
    (g : Engine w) : tableRead (trainEngine c pred actual pc size g).apt (c.calcIndex pc g.phr) =
      trainEntry c pred actual pc size (tableRead g.apt (c.calcIndex pc g.phr)) :=
  entryOf_trainEngine c pred actual pc size g

/-- R101: the frame of TRAIN in the table. -/
theorem tableRead_trainEngine_other (c : Config w) (pred actual : Value) (pc : BitVec w.pcW) (size : BitVec w.sizeW)
    (g : Engine w) {j : Index} (h : j ≠ c.calcIndex pc g.phr) :
    tableRead (trainEngine c pred actual pc size g).apt j = tableRead g.apt j :=
  tableRead_tableWrite_other _ _ _ _ h.symm

theorem confidence_pos_iff (k : Confidence) : 0 < k.toNat ↔ k ≠ 0 := by bv_omega

/-- With threshold 0 the arbiter asks only that the slot is not empty. -/
theorem queryHitMiss_iff_of_threshold_zero {c : Config w} (hc : c.confThreshold = 0) (e : Entry w) (t : Tag) :
    queryHitMiss c e t = true ↔ e.tag = t ∧ e.confidence ≠ 0 := by
  rw [queryHitMiss_iff, hc, confidence_pos_iff]

theorem queryHitMiss_trainEntry {c : Config w} (hc : c.confThreshold = 0) (pred actual : Value) (pc : BitVec w.pcW)
    (size : BitVec w.sizeW) (e : Entry w) :
    queryHitMiss c (trainEntry c pred actual pc size e) (c.calcTag pc) = true :=
  (queryHitMiss_iff_of_threshold_zero hc _ _).mpr ⟨trainEntry_tag .., trainEntry_confidence_ne_zero c pred actual pc size e⟩

/-- D9: an empty slot is allocated, whatever its tag. -/
theorem trainEntry_of_empty {c : Config w} (hc : c.confThreshold = 0) {e : Entry w} (h : e.confidence = 0)
    (pred actual : Value) (pc : BitVec w.pcW) (size : BitVec w.sizeW) :
    trainEntry c pred actual pc size e = allocateNew c actual pc size :=
  trainEntry_of_miss (Bool.eq_false_iff.mpr fun hq => ((queryHitMiss_iff_of_threshold_zero hc ..).mp hq).2 h) ..

theorem trainEntry_of_tag_ne {c : Config w} {e : Entry w} {pc : BitVec w.pcW} (h : e.tag ≠ c.calcTag pc)
    (pred actual : Value) (size : BitVec w.sizeW) :
    trainEntry c pred actual pc size e = allocateNew c actual pc size :=
  trainEntry_of_miss (Bool.eq_false_iff.mpr fun hq => h ((queryHitMiss_iff ..).mp hq).1) ..

/-- Settles O20: the eight rows are the cases of `trainEntry` at the confidences 0 to 3. -/
theorem trainTransitionTable : Obligations.TrainTransitionTable := by
  intro pred actual pc size s i tag e
  refine ⟨_, exec_eq _ s, ?_⟩
  intro e'
  have he' : e' = trainEntry Config.reference pred actual pc size e := tableRead_trainEngine_slot ..
  have hhit (htag : e.tag = tag) (hconf : e.confidence ≠ 0) :
      queryHitMiss Config.reference e (Config.reference.calcTag pc) = true :=
    (queryHitMiss_iff_of_threshold_zero rfl _ _).mpr ⟨htag, hconf⟩
  have hinc (k : Confidence) (htag : e.tag = tag) (hk : e.confidence = k) (hk0 : k ≠ 0) (hp : pred = actual) :
      e' = { e with confidence := incrementConfidence k } := by
    rw [he', hp, trainEntry_of_correct (hhit htag (hk ▸ hk0)), hk]
  have hdec (k : Confidence) (htag : e.tag = tag) (hk : e.confidence = k) (hk1 : 0 < k.toNat - 1) (hp : pred ≠ actual) :
      e' = { e with confidence := decrementConfidence k } := by
    have hk0 : e.confidence ≠ 0 := by rintro h0; simp [← hk, h0] at hk1
    rw [he', trainEntry_of_wrong (hhit htag hk0) hp (hk ▸ hk1), hk]
  refine ⟨fun h0 => ?_, fun _ htag => ?_, fun htag h1 hp => hinc 1 htag h1 (by decide) hp,
    fun htag h2 hp => hinc 2 htag h2 (by decide) hp, fun htag h3 hp => hinc 3 htag h3 (by decide) hp,
    fun htag h3 hp => hdec 3 htag h3 (by decide) hp, fun htag h2 hp => hdec 2 htag h2 (by decide) hp,
    fun htag h1 hp => ?_⟩
  · rw [he', trainEntry_of_empty rfl h0]; rfl
  · rw [he', trainEntry_of_tag_ne htag]; rfl
  · rw [he', trainEntry_of_wrong_at_floor (hhit htag (h1 ▸ by decide)) hp (by simp [h1]), htag]; rfl

/-- Settles O21: the frame of TRAIN, field by field. -/
theorem trainWritesOneSlot : Obligations.TrainWritesOneSlot := fun pred actual pc size s =>
  ⟨_, exec_eq _ s, rfl, rfl, rfl, fun _ h => tableRead_trainEngine_other Config.reference pred actual pc size s.engine h,
    rfl, rfl⟩

/-- Settles O23, by induction on the number of decrements: one more of `k - n` is `k - (n + 1)`. -/
theorem decrementStepsClamp : Obligations.DecrementStepsClamp := by
  intro n k
  induction n with
  | zero => rfl
  | succ n ih =>
    rw [Function.iterate_succ_apply', decrementConfidence_toNat, ih]
    omega

/-- Settles O24: every outcome of the state machine has the tag of pc and is not empty. -/
theorem trainThenPredictHits : Obligations.TrainThenPredictHits := by
  intro w c pred actual pc size g hc h
  have heq : entryOf c pc h = trainEntry c pred actual pc size (entryOf c pc g) := entryOf_trainEngine ..
  rw [predictResults_hit_eq, hits, heq]
  exact ⟨trainEntry_tag .., trainEntry_confidence_ne_zero c pred actual pc size _, queryHitMiss_trainEntry hc ..⟩

/-- Settles O25: an empty slot misses, so TRAIN allocates. -/
theorem allocateThenHit : Obligations.AllocateThenHit := by
  intro w c pred actual pc size g hc hempty
  have hmiss : hits c pc g = false :=
    Bool.eq_false_iff.mpr fun hq => ((queryHitMiss_iff_of_threshold_zero hc ..).mp hq).2 hempty
  refine ⟨by rw [predictResults_hit_eq, hmiss], ?_⟩
  intro h
  have heq : entryOf c pc h = allocateNew c actual pc size :=
    (entryOf_trainEngine ..).trans (trainEntry_of_miss hmiss ..)
  have hhit : hits c pc h = true := by
    rw [hits, entryOf_trainEngine]
    exact queryHitMiss_trainEntry hc ..
  exact ⟨heq, by rw [predictResults_hit c pc h hhit, heq, allocateNew_address]⟩

/-! ## The same training call repeated (44_train.md section 6) -/

/-- Repeated training calls act on the slot of pc as the state machine iterated: no other part of the engine is read. -/
theorem entryOf_trainTimes (c : Config w) (pred actual : Value) (pc : BitVec w.pcW) (size : BitVec w.sizeW) (n : Nat)
    (g : Engine w) : entryOf c pc (trainTimes c pred actual pc size n g) =
      (trainEntry c pred actual pc size)^[n] (entryOf c pc g) := by
  induction n generalizing g with
  | zero => rfl
  | succ n ih => rw [trainTimes, ih, entryOf_trainEngine, Function.iterate_succ_apply]

theorem iterate_trainEntry_of_correct {c : Config w} (hc : c.confThreshold = 0) {pc : BitVec w.pcW} (v : Value)
    (size : BitVec w.sizeW) (n : Nat) {e : Entry w} (htag : e.tag = c.calcTag pc) (hconf : e.confidence ≠ 0) :
    (trainEntry c v v pc size)^[n] e = { e with confidence := incrementConfidence^[n] e.confidence } := by
  induction n generalizing e with
  | zero => rfl
  | succ n ih =>
    have hhit := (queryHitMiss_iff_of_threshold_zero hc ..).mpr ⟨htag, hconf⟩
    rw [Function.iterate_succ_apply, trainEntry_of_correct hhit, Function.iterate_succ_apply]
    exact ih htag (incrementConfidence_ne_zero _)

/-- Fewer wrong trainings than the confidence never reach the floor. -/
theorem iterate_trainEntry_of_wrong {c : Config w} (hc : c.confThreshold = 0) {pc : BitVec w.pcW} {pred actual : Value}
    (hne : pred ≠ actual) (size : BitVec w.sizeW) (n : Nat) {e : Entry w} (htag : e.tag = c.calcTag pc)
    (hn : n < e.confidence.toNat) :
    (trainEntry c pred actual pc size)^[n] e = { e with confidence := decrementConfidence^[n] e.confidence } := by
  induction n generalizing e with
  | zero => rfl
  | succ n ih =>
    have hhit := (queryHitMiss_iff c e (c.calcTag pc)).mpr ⟨htag, by omega⟩
    rw [Function.iterate_succ_apply, trainEntry_of_wrong hhit hne (by omega), Function.iterate_succ_apply]
    exact ih htag (by rw [decrementConfidence_toNat]; omega)

theorem confidence_eq_ofNat {k : Confidence} {n : Nat} (h : k.toNat = n) : k = BitVec.ofNat 2 n := by
  rw [← h, BitVec.ofNat_toNat, BitVec.setWidth_eq]

/-- Settles O26: the trainings step the confidence, and the steps clamp at 3 by O22. -/
theorem correctTrainingClimbs : Obligations.CorrectTrainingClimbs := by
  intro w c v pc size n g hc hhit
  obtain ⟨htag, hconf⟩ := (queryHitMiss_iff_of_threshold_zero hc ..).mp hhit
  rw [entryOf_trainTimes, iterate_trainEntry_of_correct hc v size n htag hconf,
    confidence_eq_ofNat (incrementStepsClamp n _)]

/-- Settles O27: above the floor the trainings step the confidence down (O23); the last one finds it at 1. -/
theorem wrongTrainingEvicts : Obligations.WrongTrainingEvicts := by
  intro w c pred actual pc size g hc hne hhit
  obtain ⟨htag, hconf⟩ := (hits_iff ..).mp hhit
  simp only [entryOf_trainTimes]
  generalize entryOf c pc g = e at htag hconf
  refine ⟨fun n hn => ?_, ?_⟩
  · rw [iterate_trainEntry_of_wrong hc hne size n htag hn, confidence_eq_ofNat (decrementStepsClamp n _)]
  · obtain ⟨k, hk⟩ : ∃ k, e.confidence.toNat = k + 1 := ⟨_, (Nat.sub_add_cancel (Nat.one_le_of_lt hconf)).symm⟩
    have hlast : (decrementConfidence^[k] e.confidence).toNat = 1 := by rw [decrementStepsClamp]; omega
    rw [hk, Function.iterate_succ_apply', iterate_trainEntry_of_wrong hc hne size k htag (by omega),
      trainEntry_of_wrong_at_floor _ hne]
    · rfl
    · simp [hlast]
    · exact (queryHitMiss_iff ..).mpr ⟨htag, by simp [hc, hlast]⟩

/-- Settles O43: UPH writes no slot, and TRAIN only the new one. -/
theorem interveningUphLosesTraining : Obligations.InterveningUphLosesTraining := by
  intro w c q pc pred actual size g hmoved
  exact tableRead_trainEngine_other c pred actual pc size (uphEngine c q g) hmoved.symm

end Sys2Proof.Machine

namespace Sys2Proof.Machine

/-! ## What one sample of the ports does to the engine (30_encoding.md R46, R47; 20_memory.md R43)

Every claim about what a step can change is a short case analysis of `portsEngine_cases`. -/

theorem portsEngine_of_rst {c : Config Widths.reference} {p : Ports} {g : Engine Widths.reference} (h : p.rst = true) :
    portsEngine c p g = Engine.resetWith c := by
  rw [portsEngine, portsAnswer_reset c p g h, silent_engine]

theorem portsEngine_of_instr {c : Config Widths.reference} {p : Ports} {g : Engine Widths.reference} {i : Instr}
    (h : p.rst = false) (hd : decode p = .instr i) : portsEngine c p g = engineAfter c i g := by
  rw [portsEngine, portsAnswer_instr c p i g h hd, engineAfter]

/-- The three writers UPH, TRAIN and UPDSTATS by their codes; every other code leaves the engine as it is. -/
theorem portsEngine_cases (c : Config Widths.reference) {p : Ports} (g : Engine Widths.reference) (h : p.rst = false) :
    (p.cmd = 0b001 ∧ portsEngine c p g = uphEngine c p.pc g) ∨
    (p.cmd = 0b011 ∧ portsEngine c p g = trainEngine c p.pred p.actual p.pc p.size g) ∨
    (p.cmd = 0b100 ∧ portsEngine c p g = updstatsEngine p.pred p.actual p.pc g) ∨
    portsEngine c p g = g := by
  have hreserved (hk : p.cmd = 0b110 ∨ p.cmd = 0b111) : portsEngine c p g = g := by
    rw [portsEngine, portsAnswer_rejected c p _ g h (decode_of_cmd_reserved hk)]
    rfl
  rcases cmd_cases p.cmd with hk | hk | hk | hk | hk | hk | hk | hk
  · exact .inr (.inr (.inr (portsEngine_of_instr h (decode_of_cmd_nop hk))))
  · exact .inl ⟨hk, portsEngine_of_instr h (decode_of_cmd_uph hk)⟩
  · exact .inr (.inr (.inr (portsEngine_of_instr h (decode_of_cmd_predict hk))))
  · exact .inr (.inl ⟨hk, portsEngine_of_instr h (decode_of_cmd_train hk)⟩)
  · exact .inr (.inr (.inl ⟨hk, portsEngine_of_instr h (decode_of_cmd_updstats hk)⟩))
  · exact .inr (.inr (.inr (portsEngine_of_instr h (decode_of_cmd_rdentry hk))))
  · exact .inr (.inr (.inr (hreserved (.inl hk))))
  · exact .inr (.inr (.inr (hreserved (.inr hk))))

/-- A step leaves the engine that its command leaves, and takes the command off. -/
theorem step_next {s t : State} (h : step s = .next t) :
    t.engine = portsEngine Config.reference (nextCommand s).1 s.engine ∧ t.pending = s.pending.tail := by
  rw [step_eq] at h
  injection h with h
  subst h
  exact ⟨rfl, by rw [State.finish_pending, nextCommand_pending]⟩

/-! ## The invariant of the engine (10_state.md section 6) -/

variable {w : Widths}

theorem le_satinc64 {n : Nat} (k : BitVec n) : k ≤ satinc64 k := by
  have := k.isLt
  rw [BitVec.le_def, satinc64_toNat]
  omega

theorem satinc64_le_satinc64 {n : Nat} {j k : BitVec n} (h : j ≤ k) : satinc64 j ≤ satinc64 k := by
  rw [BitVec.le_def] at h ⊢
  rw [satinc64_toNat, satinc64_toNat]
  omega

theorem Engine.Inv.resetWith (c : Config w) : (Engine.resetWith c).Inv c where
  table := ⟨.nil, by simp⟩
  empties _ _ := rfl
  tags _ h := absurd rfl h
  counters := BitVec.le_refl _

theorem Engine.Inv.uphEngine {c : Config w} {g : Engine w} (h : g.Inv c) (pc : BitVec w.pcW) :
    (uphEngine c pc g).Inv c := ⟨h.table, h.empties, h.tags, h.counters⟩

theorem Engine.Inv.updstatsEngine {c : Config w} {g : Engine w} (h : g.Inv c) (pred actual : Value) (pc : BitVec w.pcW) :
    (updstatsEngine pred actual pc g).Inv c where
  table := h.table
  empties := h.empties
  tags := h.tags
  counters := by
    rw [updstatsEngine_numCorrect, updstatsEngine_total]
    split
    · exact satinc64_le_satinc64 h.counters
    · exact BitVec.le_trans h.counters (le_satinc64 _)

/-- The written slot is never empty and carries the tag of its pc; every other slot is as before. -/
theorem Engine.Inv.trainEngine {c : Config w} {g : Engine w} (h : g.Inv c) (pred actual : Value) (pc : BitVec w.pcW)
    (size : BitVec w.sizeW) : (trainEngine c pred actual pc size g).Inv c where
  table := tableWrite_wf h.table _ _
  empties i hi := by
    by_cases hslot : i = c.calcIndex pc g.phr
    · rw [hslot, tableRead_trainEngine_slot] at hi
      exact absurd hi (trainEntry_confidence_ne_zero c pred actual pc size _)
    · rw [tableRead_trainEngine_other _ _ _ _ _ _ hslot] at hi ⊢
      exact h.empties i hi
  tags i hi := by
    by_cases hslot : i = c.calcIndex pc g.phr
    · rw [hslot, tableRead_trainEngine_slot]
      exact ⟨pc, trainEntry_tag ..⟩
    · rw [tableRead_trainEngine_other _ _ _ _ _ _ hslot] at hi ⊢
      exact h.tags i hi
  counters := h.counters

/-- Every sample of the ports keeps the invariant, a reset request included. -/
theorem Engine.Inv.portsEngine {c : Config Widths.reference} {g : Engine Widths.reference} (h : g.Inv c) (p : Ports) :
    (portsEngine c p g).Inv c := by
  cases hrst : p.rst with
  | true => rw [portsEngine_of_rst hrst]; exact .resetWith c
  | false =>
    obtain ⟨-, heq⟩ | ⟨-, heq⟩ | ⟨-, heq⟩ | heq := portsEngine_cases c g hrst <;> rw [heq]
    · exact h.uphEngine _
    · exact h.trainEngine ..
    · exact h.updstatsEngine ..
    · exact h

/-- Settles O39: a step is a sample of the ports under the reference configuration. -/
theorem stepKeepsEngineInv : Obligations.StepKeepsEngineInv :=
  ⟨fun _ p _ h => h.portsEngine p, fun _ _ h hstep => (step_next hstep).1 ▸ h.portsEngine _⟩

/-- Settles O40: reset is one case of the invariant. -/
theorem resetMeetsEngineInv : Obligations.ResetMeetsEngineInv :=
  ⟨fun _ c => .resetWith c, .resetWith Config.reference⟩

/-! ## What a step without a reset can change (20_memory.md section 5, 70_reset_and_hazards.md section 1) -/

/-- A TRAIN leaves no slot empty that was not. -/
theorem tableRead_trainEngine_confidence_ne_zero {c : Config w} {g : Engine w} {i : Index}
    (h : (tableRead g.apt i).confidence ≠ 0) (pred actual : Value) (pc : BitVec w.pcW) (size : BitVec w.sizeW) :
    (tableRead (trainEngine c pred actual pc size g).apt i).confidence ≠ 0 := by
  by_cases hslot : i = c.calcIndex pc g.phr
  · rw [hslot, tableRead_trainEngine_slot]
    exact trainEntry_confidence_ne_zero c pred actual pc size _
  · rwa [tableRead_trainEngine_other _ _ _ _ _ _ hslot]

theorem le_updstatsEngine_numCorrect (pred actual : Value) (pc : BitVec w.pcW) (g : Engine w) :
    g.numCorrect ≤ (updstatsEngine pred actual pc g).numCorrect := by
  rw [updstatsEngine_numCorrect]
  split
  · exact le_satinc64 _
  · exact BitVec.le_refl _

/-- Settles O33: each of the three writers, one by one. -/
theorem onlyResetTakesBack : Obligations.OnlyResetTakesBack := by
  intro s t hstep hrst
  obtain ⟨hengine, -⟩ := step_next hstep
  rw [hengine]
  obtain ⟨-, heq⟩ | ⟨-, heq⟩ | ⟨-, heq⟩ | heq := portsEngine_cases Config.reference s.engine hrst <;> rw [heq]
  · exact ⟨fun _ h => h, BitVec.le_refl _, BitVec.le_refl _, fun _ => rfl⟩
  · exact ⟨fun _ h => tableRead_trainEngine_confidence_ne_zero h _ _ _ _, BitVec.le_refl _, BitVec.le_refl _,
      fun h => absurd rfl h⟩
  · exact ⟨fun _ h => h, le_satinc64 _, le_updstatsEngine_numCorrect .., fun h => absurd rfl h⟩
  · exact ⟨fun _ h => h, BitVec.le_refl _, BitVec.le_refl _, fun h => absurd rfl h⟩

/-- Settles O36: what each of the three writers leaves as it was. -/
theorem onlyNamedWritersWrite : Obligations.OnlyNamedWritersWrite := by
  intro s t hstep hrst
  obtain ⟨hengine, -⟩ := step_next hstep
  rw [hengine]
  obtain ⟨hcmd, heq⟩ | ⟨hcmd, heq⟩ | ⟨hcmd, heq⟩ | heq := portsEngine_cases Config.reference s.engine hrst <;> rw [heq]
  · exact ⟨fun _ => hcmd, by simp, by simp, by simp⟩
  · refine ⟨by simp, by simp, fun _ => hcmd, fun i hi => ⟨hcmd, ?_⟩⟩
    by_contra hslot
    exact hi (tableRead_trainEngine_other _ _ _ _ _ _ hslot)
  · exact ⟨by simp, fun _ => hcmd, by simp, by simp⟩
  · exact ⟨by simp, by simp, by simp, by simp⟩

/-- Settles O35: `exec` and `step` are given by their answers, which always exist. -/
theorem nothingFaults : Obligations.NothingFaults :=
  ⟨fun i s => ⟨_, exec_eq i s⟩, fun s => ⟨_, step_eq s, (step_next (step_eq s)).2⟩⟩

/-! ## Runs of the machine (20_memory.md R37, section 4) -/

theorem nextCommand_of_pending {s : State} {p : Ports} {rest : List Ports} (h : s.pending = p :: rest) :
    nextCommand s = (p, { s with pending := rest }) := by
  simp only [nextCommand, h]

theorem nextCommand_of_idle {s : State} (h : s.pending = []) : nextCommand s = (Ports.idle, s) := by
  simp only [nextCommand, h]

theorem step_of_pending {s : State} {p : Ports} {rest : List Ports} (h : s.pending = p :: rest) :
    step s = .next { engine := portsEngine Config.reference p s.engine, pending := rest } := by
  rw [step_eq, nextCommand_of_pending h]
  rfl

/-- The engine after the commands `ps`, in issue order. -/
def engineAfterAll (c : Config Widths.reference) (ps : List Ports) (g : Engine Widths.reference) : Engine Widths.reference :=
  ps.foldl (fun g p => portsEngine c p g) g

theorem engineAfterAll_cons (c : Config Widths.reference) (p : Ports) (ps : List Ports) (g : Engine Widths.reference) :
    engineAfterAll c (p :: ps) g = engineAfterAll c ps (portsEngine c p g) := rfl

/-- A run through the commands `ps` folds them over the engine and leaves the commands behind them pending. -/
theorem run_of_pending_append {ps rest : List Ports} {s : State} (h : s.pending = ps ++ rest) :
    Host.Core.run Sys2Proof.core ps.length s =
      .next { engine := engineAfterAll Config.reference ps s.engine, pending := rest } := by
  induction ps generalizing s with
  | nil => rw [← show s.pending = rest from h]; rfl
  | cons p ps ih =>
    rw [List.length_cons, run_succ _ _ _ (step_of_pending h)]
    exact ih rfl

/-- Settles O38: a run through the whole queue. -/
theorem sequenceIsFold : Obligations.SequenceIsFold := fun ps _ h =>
  ⟨_, run_of_pending_append (ps := ps) (h.trans ps.append_nil.symm), rfl, rfl⟩

/-- Settles O37: the run before `p` leaves `p` first in the queue. -/
theorem outputsHoldNoState : Obligations.OutputsHoldNoState := fun _ _ _ _ h =>
  ⟨_, run_of_pending_append h, rfl, rfl⟩

/-! ## The counters along a run (45_stats.md section 1) -/

/-- Code 100 is the one code that reaches a counter. -/
theorem portsEngine_counters_of_not_updstats (c : Config Widths.reference) {p : Ports} (g : Engine Widths.reference)
    (hrst : p.rst = false) (h : isUpdstats p = false) :
    (portsEngine c p g).total = g.total ∧ (portsEngine c p g).numCorrect = g.numCorrect := by
  obtain ⟨-, heq⟩ | ⟨-, heq⟩ | ⟨hcmd, -⟩ | heq := portsEngine_cases c g hrst
  · rw [heq]; exact ⟨rfl, rfl⟩
  · rw [heq]; exact ⟨rfl, rfl⟩
  · simp [isUpdstats, hrst, hcmd] at h
  · rw [heq]; exact ⟨rfl, rfl⟩

theorem portsEngine_of_updstats (c : Config Widths.reference) {p : Ports} (g : Engine Widths.reference)
    (h : isUpdstats p = true) : portsEngine c p g = updstatsEngine p.pred p.actual p.pc g := by
  simp only [isUpdstats, Bool.and_eq_true, Bool.not_eq_true', beq_iff_eq] at h
  exact portsEngine_of_instr h.1 (decode_of_cmd_updstats h.2)

/-- The saturation of a counter at the reference width, as a numeral. -/
theorem satinc64_counter_toNat (k : Counter) : (satinc64 k).toNat = min (k.toNat + 1) (2 ^ 64 - 1) := satinc64_toNat k

theorem updstatsEngine_numCorrect_toNat_le (pred actual : Value) (pc : BitVec w.pcW) (g : Engine w) :
    (updstatsEngine pred actual pc g).numCorrect.toNat ≤ g.numCorrect.toNat + 1 := by
  rw [updstatsEngine_numCorrect]
  split
  · rw [satinc64_toNat]; omega
  · omega

theorem engineAfterAll_counters (c : Config Widths.reference) {ps : List Ports} (g : Engine Widths.reference)
    (hrst : ∀ p ∈ ps, p.rst = false) :
    (engineAfterAll c ps g).total.toNat = min (g.total.toNat + (ps.filter isUpdstats).length) (2 ^ 64 - 1) ∧
    g.numCorrect.toNat ≤ (engineAfterAll c ps g).numCorrect.toNat ∧
    (engineAfterAll c ps g).numCorrect.toNat ≤ g.numCorrect.toNat + (ps.filter isUpdstats).length := by
  induction ps generalizing g with
  | nil =>
    have hlt := counter_lt g.total
    exact ⟨(Nat.min_eq_left (Nat.le_pred_of_lt hlt)).symm, le_rfl, le_rfl⟩
  | cons p ps ih =>
    obtain ⟨hp, hps⟩ := List.forall_mem_cons.mp hrst
    obtain ⟨htotal, hle, hge⟩ := ih (portsEngine c p g) hps
    rw [engineAfterAll_cons]
    cases hu : isUpdstats p with
    | false =>
      obtain ⟨htotal', hcorrect'⟩ := portsEngine_counters_of_not_updstats c g hp hu
      rw [htotal'] at htotal
      rw [hcorrect'] at hle hge
      rw [List.filter_cons_of_neg (by simp [hu])]
      exact ⟨htotal, hle, hge⟩
    | true =>
      have hup := le_updstatsEngine_numCorrect p.pred p.actual p.pc g
      have hbound := updstatsEngine_numCorrect_toNat_le p.pred p.actual p.pc g
      rw [BitVec.le_def] at hup
      rw [portsEngine_of_updstats c g hu] at htotal hle hge ⊢
      rw [updstatsEngine_total, satinc64_counter_toNat] at htotal
      rw [List.filter_cons_of_pos hu, List.length_cons]
      exact ⟨htotal.trans (by omega), hup.trans hle, hge.trans (by omega)⟩

/-- Settles O31: the counters of the fold that the run leads to. -/
theorem totalCountsUpdstats : Obligations.TotalCountsUpdstats := fun ps s hrst h =>
  ⟨_, run_of_pending_append (ps := ps) (h.trans ps.append_nil.symm),
    engineAfterAll_counters Config.reference s.engine hrst⟩

end Sys2Proof.Machine

namespace Sys2Proof.Machine

/-! ## Engines that differ at most in sizes (44_train.md R103)

The arbiter and the training state machine read tag, address and confidence alone. -/

variable {w : Widths}

/-- The size field of the trained slot: kept when the entry is only stepped, the operand when it is allocated. -/
theorem trainEntry_size (c : Config w) (pred actual : Value) (pc : BitVec w.pcW) (size : BitVec w.sizeW) (e : Entry w) :
    (trainEntry c pred actual pc size e).size =
      if queryHitMiss c e (c.calcTag pc) = true ∧ (pred = actual ∨ c.confThreshold < e.confidence.toNat - 1)
      then e.size else size := by
  obtain ⟨hq, hp, heq⟩ | ⟨hq, -, hfloor, heq⟩ | ⟨hmiss, heq⟩ := trainEntry_cases c pred actual pc size e <;> rw [heq]
  · rw [if_pos ⟨hq, .inl hp⟩]
  · rw [if_pos ⟨hq, .inr hfloor⟩]
  · rw [if_neg, allocateNew_size]
    rintro ⟨hq, hp⟩
    obtain hmiss | ⟨hne, hfloor⟩ := hmiss
    · rw [hq] at hmiss
      contradiction
    · exact hp.elim hne (Nat.not_lt.mpr hfloor)

theorem Entry.SameButSize.queryHitMiss_eq {e f : Entry w} (h : e.SameButSize f) (c : Config w) (t : Tag) :
    queryHitMiss c e t = queryHitMiss c f t := by
  obtain ⟨htag, -, hconf⟩ := h
  rw [queryHitMiss, queryHitMiss, htag, hconf]

/-- Both entries take the same outcome of the state machine, whatever the size operands. -/
theorem Entry.SameButSize.trainEntry {e f : Entry w} (h : e.SameButSize f) (c : Config w) (pred actual : Value)
    (pc : BitVec w.pcW) (m n : BitVec w.sizeW) :
    (trainEntry c pred actual pc m e).SameButSize (trainEntry c pred actual pc n f) := by
  have hq := h.queryHitMiss_eq c (c.calcTag pc)
  obtain ⟨htag, haddress, hconf⟩ := h
  unfold Machine.trainEntry
  rw [hq, hconf]
  split
  · split
    · exact ⟨htag, haddress, rfl⟩
    · split
      · exact ⟨rfl, rfl, rfl⟩
      · exact ⟨htag, haddress, rfl⟩
  · exact ⟨rfl, rfl, rfl⟩

section
variable {g h : Engine w} (hgh : g.SameButSize h)
include hgh

theorem Engine.SameButSize.entryOf (c : Config w) (pc : BitVec w.pcW) : (entryOf c pc g).SameButSize (entryOf c pc h) := by
  obtain ⟨hphr, -, -, hread⟩ := hgh
  rw [Machine.entryOf, Machine.entryOf, slotOf_eq, slotOf_eq, hphr]
  exact hread _

theorem Engine.SameButSize.hits_eq (c : Config w) (pc : BitVec w.pcW) : hits c pc g = hits c pc h :=
  (hgh.entryOf c pc).queryHitMiss_eq c _

theorem Engine.SameButSize.predictResults (c : Config w) (pc : BitVec w.pcW) :
    (predictResults c pc g).SameButSize (predictResults c pc h) := by
  obtain ⟨-, haddress, -⟩ := hgh.entryOf c pc
  rw [Results.SameButSize, Machine.predictResults, Machine.predictResults, hgh.hits_eq, haddress]

theorem Engine.SameButSize.rdentryResults (i : Index) : (rdentryResults i g).SameButSize (rdentryResults i h) := by
  obtain ⟨-, -, -, hread⟩ := hgh
  obtain ⟨htag, haddress, hconf⟩ := hread i
  simp only [Results.SameButSize, Machine.rdentryResults, htag, haddress, hconf]

theorem Engine.SameButSize.uphEngine (c : Config w) (pc : BitVec w.pcW) :
    (uphEngine c pc g).SameButSize (uphEngine c pc h) := by
  obtain ⟨hphr, htotal, hcorrect, hread⟩ := hgh
  exact ⟨congrArg (c.phUpdate · pc) hphr, htotal, hcorrect, hread⟩

theorem Engine.SameButSize.updstatsEngine (pred actual : Value) (pc : BitVec w.pcW) :
    (updstatsEngine pred actual pc g).SameButSize (updstatsEngine pred actual pc h) := by
  obtain ⟨hphr, htotal, hcorrect, hread⟩ := hgh
  refine ⟨hphr, congrArg satinc64 htotal, ?_, hread⟩
  rw [updstatsEngine_numCorrect, updstatsEngine_numCorrect, hcorrect]

theorem Engine.SameButSize.trainEngine (c : Config w) (pred actual : Value) (pc : BitVec w.pcW) (m n : BitVec w.sizeW) :
    (trainEngine c pred actual pc m g).SameButSize (trainEngine c pred actual pc n h) := by
  have hentry := (hgh.entryOf c pc).trainEntry c pred actual pc m n
  obtain ⟨hphr, htotal, hcorrect, hread⟩ := hgh
  refine ⟨hphr, htotal, hcorrect, fun i => ?_⟩
  by_cases hslot : i = c.calcIndex pc g.phr
  · rw [hslot, tableRead_trainEngine_slot, hphr, tableRead_trainEngine_slot]
    rwa [Machine.entryOf, Machine.entryOf, slotOf_eq, slotOf_eq, hphr] at hentry
  · rw [tableRead_trainEngine_other _ _ _ _ _ _ hslot, tableRead_trainEngine_other _ _ _ _ _ _ (hphr ▸ hslot)]
    exact hread i

end

/-- Settles O28: `trainEntry_size` for the size that is stored, the rules above operation by operation for the relation. -/
theorem sizeIsInert : Obligations.SizeIsInert := by
  refine ⟨fun w c pred actual pc size g => ?_, fun c i j g h hij hgh => ?_⟩
  · rw [entryOf_trainEngine]
    exact trainEntry_size ..
  · cases i with
    | train pred actual pc m =>
      obtain ⟨n, rfl⟩ := hij
      exact ⟨hgh.trainEngine c pred actual pc m n, rfl⟩
    | nop => subst hij; exact ⟨hgh, rfl⟩
    | uph pc => subst hij; exact ⟨hgh.uphEngine c pc, rfl⟩
    | predict pc => subst hij; exact ⟨hgh, hgh.predictResults c pc⟩
    | updstats pred actual pc => subst hij; exact ⟨hgh.updstatsEngine pred actual pc, rfl⟩
    | rdentry idx => subst hij; exact ⟨hgh, hgh.rdentryResults idx⟩

/-! ## Canonical tables (log entry 3) -/

theorem tableRead_eq_empty {t : Table w} {i : Index} (h : ∀ c ∈ t, c.1 ≠ i) : tableRead t i = Entry.empty := by
  induction t with
  | nil => rfl
  | cons c rest ih =>
    rw [List.forall_mem_cons] at h
    rw [tableRead_cons, if_neg h.1, ih h.2]

/-- A canonical table lists exactly the slots that do not read as EMPTY_ENTRY. -/
theorem mem_iff_tableRead {t : Table w} (ht : Table.wf t) (i : Index) (e : Entry w) :
    (i, e) ∈ t ↔ tableRead t i = e ∧ e ≠ Entry.empty := by
  induction t with
  | nil => exact iff_of_false List.not_mem_nil fun ⟨hread, he⟩ => he hread.symm
  | cons c rest ih =>
    obtain ⟨j, f⟩ := c
    obtain ⟨hpair, hne⟩ := ht
    obtain ⟨hlt, hrest⟩ := List.pairwise_cons.mp hpair
    obtain ⟨hf, hne⟩ := List.forall_mem_cons.mp hne
    rw [List.mem_cons, ih ⟨hrest, hne⟩, tableRead_cons]
    by_cases hij : j = i
    · subst hij
      have hempty : tableRead rest j = Entry.empty := tableRead_eq_empty fun c hc h => BitVec.lt_irrefl _ (h ▸ hlt c hc)
      rw [if_pos rfl, hempty]
      constructor
      · rintro (heq | ⟨rfl, he⟩)
        · obtain ⟨-, rfl⟩ := Prod.mk.inj heq
          exact ⟨rfl, hf⟩
        · exact absurd rfl he
      · rintro ⟨rfl, -⟩
        exact .inl rfl
    · rw [if_neg hij]
      exact or_iff_right fun heq => hij (Prod.mk.inj heq).1.symm

theorem nodup_of_wf {t : Table w} (ht : Table.wf t) : t.Nodup :=
  List.Pairwise.imp (fun {a b} (hlt : a.1 < b.1) (heq : a = b) => BitVec.lt_irrefl b.1 (heq ▸ hlt)) ht.1

/-- Settles O41: the tables have the same cells, and a strictly rising list is fixed by its cells. -/
theorem canonicalTablesReadAlike : Obligations.CanonicalTablesReadAlike := by
  intro w t u ht hu hread
  have hmem (c : Index × Entry w) : c ∈ t ↔ c ∈ u := by
    rw [← Prod.mk.eta (p := c), mem_iff_tableRead ht, mem_iff_tableRead hu, hread]
  have hperm : t.Perm u := (List.perm_ext_iff_of_nodup (nodup_of_wf ht) (nodup_of_wf hu)).mpr hmem
  exact hperm.eq_of_pairwise (fun _ _ _ _ h h' => absurd (BitVec.lt_trans h h') (BitVec.lt_irrefl _)) ht.1 hu.1

end Sys2Proof.Machine

namespace Sys2Proof.Machine

/-! ## The packed entry (30_encoding.md R51)

Field by field, for every width of the size field. -/

variable {w : Widths}

theorem pack_tag (e : Entry w) : e.pack.extractLsb' (64 + 2 + w.sizeW) 14 = e.tag := by
  rw [Entry.pack, BitVec.extractLsb'_append_eq_of_le (by omega), BitVec.extractLsb'_append_eq_of_le (by omega),
    BitVec.extractLsb'_append_eq_of_le (by omega), Nat.add_sub_cancel, Nat.add_sub_cancel, Nat.sub_self,
    BitVec.extractLsb'_eq_self]

theorem pack_address (e : Entry w) : e.pack.extractLsb' (2 + w.sizeW) 64 = e.address := by
  rw [Entry.pack, BitVec.extractLsb'_append_eq_of_le (by omega), BitVec.extractLsb'_append_eq_of_le (by omega),
    Nat.add_sub_cancel, Nat.sub_self, BitVec.extractLsb'_append_eq_right]

theorem pack_confidence (e : Entry w) : e.pack.extractLsb' w.sizeW 2 = e.confidence := by
  rw [Entry.pack, BitVec.extractLsb'_append_eq_of_le le_rfl, Nat.sub_self, BitVec.extractLsb'_append_eq_right]

theorem pack_size (e : Entry w) : e.pack.extractLsb' 0 w.sizeW = e.size := BitVec.extractLsb'_append_eq_right

theorem unpack_pack (e : Entry w) : Entry.unpack e.pack = e := by
  rw [Entry.unpack, pack_tag, pack_address, pack_confidence, pack_size]

/-- The four slices are adjacent and cover the vector. -/
theorem pack_unpack (v : BitVec w.entryW) : (Entry.unpack v).pack = v := by
  simp only [Entry.pack, Entry.unpack]
  rw [BitVec.extractLsb'_append_extractLsb'_eq_extractLsb' (by omega),
    BitVec.extractLsb'_append_extractLsb'_eq_extractLsb' (by omega),
    BitVec.extractLsb'_append_extractLsb'_eq_extractLsb' (by omega), BitVec.extractLsb'_eq_self]

/-- Settles O4: the fields at the reference width 8 of the size. -/
theorem packedEntryLayout : Obligations.PackedEntryLayout :=
  ⟨fun e => ⟨unpack_pack e, pack_tag e, pack_address e, pack_confidence e, pack_size e⟩, pack_unpack, by decide⟩

/-! ## The reference hashes as arithmetic (30_encoding.md R53, 40_path_history.md R67, 41_index_tag.md R72, R76) -/

theorem pcfold_toNat (pc : Pc) : (pcfold pc).toNat = (pc.toNat % 2 ^ 32) ^^^ (pc.toNat / 2 ^ 32) := by
  have hlt := pc_lt pc
  rw [pcfold, BitVec.toNat_xor, BitVec.extractLsb'_toNat, BitVec.extractLsb'_toNat, Nat.shiftRight_zero,
    Nat.shiftRight_eq_div_pow, Nat.mod_eq_of_lt (a := pc.toNat / 2 ^ 32) (by omega)]

theorem pcfold_toNat_of_lt {pc : Pc} (h : pc.toNat < 2 ^ 32) : (pcfold pc).toNat = pc.toNat := by
  rw [pcfold_toNat, Nat.mod_eq_of_lt h, Nat.div_eq_of_lt h, Nat.xor_zero]

/-- Settles O5: the high slice of a 64-bit pc is its quotient by 2^32. -/
theorem pcfoldArithmetic : Obligations.PcfoldArithmetic := fun pc => ⟨pcfold_toNat pc, pcfold_toNat_of_lt⟩

/-- Settles O6: the shifts as a product modulo 2^32 and a quotient. -/
theorem phUpdateArithmetic : Obligations.PhUpdateArithmetic := by
  intro h pc
  rw [reference_phUpdate, phUpdateRef, BitVec.toNat_xor, BitVec.toNat_shiftLeft, BitVec.toNat_ushiftRight,
    Nat.shiftLeft_eq, Nat.shiftRight_eq_div_pow]

/-- The low `n` bits of the shifted value are all that a slice of `n` bits keeps. -/
theorem extractLsb'_toNat_eq_and (x : BitVec 32) (k n : Nat) :
    (x.extractLsb' k n).toNat = (x.toNat >>> k) &&& (2 ^ n - 1) := by
  rw [BitVec.extractLsb'_toNat, Nat.and_two_pow_sub_one_eq_mod]

/-- The last chunk, of fewer than `m` bits, is zero-extended: it is what the mask of `m` bits leaves of the shifted value. -/
theorem setWidth_extractLsb'_toNat_eq_and (x : BitVec 32) {k n m : Nat} (hk : 32 ≤ k + n) :
    ((x.extractLsb' k n).setWidth m).toNat = (x.toNat >>> k) &&& (2 ^ m - 1) := by
  have hlt : x.toNat >>> k < 2 ^ n := by
    rw [Nat.shiftRight_eq_div_pow, Nat.div_lt_iff_lt_mul (by positivity), ← pow_add]
    exact x.isLt.trans_le (Nat.pow_le_pow_right (by omega) (by omega))
  rw [BitVec.toNat_setWidth, BitVec.extractLsb'_toNat, Nat.mod_eq_of_lt hlt, Nat.and_two_pow_sub_one_eq_mod]

theorem fold10_toNat (x : BitVec 32) : (fold10 x).toNat =
    (x.toNat ^^^ (x.toNat >>> 10) ^^^ (x.toNat >>> 20) ^^^ (x.toNat >>> 30)) &&& 0x3FF := by
  simp only [fold10, BitVec.toNat_xor, extractLsb'_toNat_eq_and,
    setWidth_extractLsb'_toNat_eq_and x (k := 30) (n := 2) (m := 10) (by decide), Nat.and_xor_distrib_right,
    Nat.shiftRight_zero]
  rfl

theorem fold14_toNat (y : BitVec 32) : (fold14 y).toNat =
    (y.toNat ^^^ (y.toNat >>> 14) ^^^ (y.toNat >>> 28)) &&& 0x3FFF := by
  simp only [fold14, BitVec.toNat_xor, extractLsb'_toNat_eq_and,
    setWidth_extractLsb'_toNat_eq_and y (k := 28) (n := 4) (m := 14) (by decide), Nat.and_xor_distrib_right,
    Nat.shiftRight_zero]
  rfl

/-- Settles O7: masking distributes over the chunks of the fold. -/
theorem calcIndexArithmetic : Obligations.CalcIndexArithmetic := by
  intro pc h x
  refine ⟨?_, Nat.le_of_lt_succ (BitVec.isLt _)⟩
  rw [reference_calcIndex, calcIndexRef, fold10_toNat, BitVec.toNat_xor]

/-- Settles O8: below 2^14 the two upper chunks are 0. -/
theorem calcTagArithmetic : Obligations.CalcTagArithmetic := by
  intro pc y
  rw [reference_calcTag, calcTagRef, fold14_toNat]
  refine ⟨rfl, fun hlt => ?_⟩
  rw [pcfold_toNat_of_lt (by omega), Nat.shiftRight_eq_div_pow, Nat.shiftRight_eq_div_pow, Nat.div_eq_of_lt hlt,
    Nat.div_eq_of_lt (by omega), Nat.xor_zero, Nat.xor_zero]
  exact Nat.and_two_pow_sub_one_of_lt_two_pow (n := 14) hlt

/-! ## The linear structure of the hashes (40_path_history.md section 3, 41_index_tag.md section 1) -/

theorem fold10_xor (a b : BitVec 32) : fold10 (a ^^^ b) = fold10 a ^^^ fold10 b := by
  simp only [fold10, BitVec.extractLsb'_xor, BitVec.setWidth_xor]
  ac_rfl

/-- Settles O9: every chunk of the fold is linear. -/
theorem indexSplitsOverXor : Obligations.IndexSplitsOverXor := ⟨fold10_xor, fun pc h => fold10_xor (pcfold pc) h⟩

/-- One fold cancels the pc between two histories and shifts what they differ in. -/
theorem phUpdate_xor_phUpdate (h k : Phr) (pc : Pc) :
    Config.reference.phUpdate h pc ^^^ Config.reference.phUpdate k pc = (h ^^^ k) <<< 4 := by
  rw [reference_phUpdate, phUpdateRef, phUpdateRef, BitVec.shiftLeft_xor_distrib]
  generalize pcfold pc >>> 2 = p
  rw [BitVec.xor_assoc, BitVec.xor_comm p, BitVec.xor_assoc, BitVec.xor_self, BitVec.xor_zero]

theorem phrAfter_cons (h : Phr) (pc : Pc) (pcs : List Pc) : phrAfter Config.reference h (pc :: pcs) =
    phrAfter Config.reference (Config.reference.phUpdate h pc) pcs := rfl

/-- Each pc moves the difference of two histories up by 4 bits. -/
theorem phrAfter_xor_phrAfter (h k : Phr) (pcs : List Pc) :
    phrAfter Config.reference h pcs ^^^ phrAfter Config.reference k pcs = (h ^^^ k) <<< (4 * pcs.length) := by
  induction pcs generalizing h k with
  | nil => exact (BitVec.shiftLeft_zero _).symm
  | cons pc pcs ih =>
    rw [phrAfter_cons, phrAfter_cons, ih, phUpdate_xor_phUpdate, ← BitVec.shiftLeft_add, List.length_cons, Nat.mul_succ,
      Nat.add_comm]

/-- Settles O10: after 8 pcs the difference is shifted out of the 32 bits. -/
theorem historyWindowIsEight : Obligations.HistoryWindowIsEight := by
  intro pcs h k hlen
  rw [← BitVec.xor_eq_zero_iff, phrAfter_xor_phrAfter]
  exact BitVec.shiftLeft_eq_zero (by omega)

/-- Settles O11: the run of `n + 1` folds is one of `n` folds from a later history. -/
theorem repeatedPcSettles : Obligations.RepeatedPcSettles := by
  intro h pc n hn
  rw [List.replicate_succ, phrAfter_cons]
  exact historyWindowIsEight _ _ _ (by rwa [List.length_replicate])

/-- A value that equals its own shift by 2 has no set bit. -/
theorem eq_zero_of_eq_ushiftRight_two {d : BitVec 32} (h : d = d >>> 2) : d = 0#32 := by
  have hnat := congrArg BitVec.toNat h
  rw [BitVec.toNat_ushiftRight, Nat.shiftRight_eq_div_pow] at hnat
  apply BitVec.eq_of_toNat_eq
  rw [BitVec.toNat_zero]
  omega

/-- Settles O12: two values with one image differ by a value that equals its own shift. -/
theorem foldedPcDoesNotCancel : Obligations.FoldedPcDoesNotCancel := by
  refine ⟨fun h pc => ?_, fun p q hpq => ?_⟩
  · rw [reference_calcIndex, reference_phUpdate, calcIndexRef, phUpdateRef]
    exact congrArg fold10 (by ac_rfl)
  · have hd : p ^^^ q = (p ^^^ q) >>> 2 := by
      rw [BitVec.ushiftRight_xor_distrib, ← BitVec.xor_eq_zero_iff]
      rw [← BitVec.xor_eq_zero_iff] at hpq
      rw [← hpq]
      ac_rfl
    exact BitVec.xor_eq_zero_iff.mp (eq_zero_of_eq_ushiftRight_two hd)

/-! ## Pcs that no hash tells apart (41_index_tag.md section 3) -/

section
variable {c : Config w} {pc pc' : BitVec w.pcW} (hindex : ∀ h, c.calcIndex pc h = c.calcIndex pc' h)
  (htag : c.calcTag pc = c.calcTag pc')

include htag in
theorem trainEntry_congr_pc (pred actual : Value) (size : BitVec w.sizeW)
    (e : Entry w) : trainEntry c pred actual pc size e = trainEntry c pred actual pc' size e := by
  rw [trainEntry, allocateNew, htag]
  rfl

include hindex

theorem entryOf_congr_pc (g : Engine w) : entryOf c pc g = entryOf c pc' g := by
  rw [entryOf, entryOf, slotOf_eq, slotOf_eq, hindex]

include htag

theorem predictResults_congr_pc (g : Engine w) : predictResults c pc g = predictResults c pc' g := by
  rw [predictResults, predictResults, hits, hits, entryOf_congr_pc hindex, htag]

theorem trainEngine_congr_pc (pred actual : Value) (size : BitVec w.sizeW) (g : Engine w) :
    trainEngine c pred actual pc size g = trainEngine c pred actual pc' size g := by
  rw [trainEngine, trainEngine, slotOf_eq, slotOf_eq, hindex, entryOf_congr_pc hindex, trainEntry_congr_pc htag]

end

/-- Settles O13: each of the three reference hashes reads the fold of the pc alone. -/
theorem equalFoldsIndistinguishable : Obligations.EqualFoldsIndistinguishable := by
  intro pc pc' s hfold
  have hupdate : Config.reference.phUpdate s.engine.phr pc = Config.reference.phUpdate s.engine.phr pc' := by
    rw [reference_phUpdate, phUpdateRef, phUpdateRef, hfold]
  have hindex (h : Phr) : Config.reference.calcIndex pc h = Config.reference.calcIndex pc' h := by
    rw [reference_calcIndex, calcIndexRef, calcIndexRef, hfold]
  have htag : Config.reference.calcTag pc = Config.reference.calcTag pc' := by
    rw [reference_calcTag, calcTagRef, calcTagRef, hfold]
  refine ⟨?_, rfl, predictResults_congr_pc hindex htag s.engine, fun pred actual size => ?_⟩
  · simp only [exec, execUph, uphAnswer, uphEngine, hupdate]
  · simp only [exec, execTrain, trainAnswer, trainEngine_congr_pc hindex htag]

end Sys2Proof.Machine

namespace Sys2Proof.Machine

/-! ## One operation at a time (40_path_history.md R65, 42_lookup.md R84, 43_predict.md R87, 45_stats.md R105, R109) -/

/-- Settles O14: the fields of the engine after UPH; the example is one evaluation of the fold. -/
theorem uphWritesOnlyPhr : Obligations.UphWritesOnlyPhr := by
  refine ⟨fun p h => decode_of_cmd_uph h, fun pc s => ⟨_, exec_eq _ s, rfl, rfl, rfl, rfl, rfl, rfl⟩, fun s hphr => ?_⟩
  refine ⟨_, exec_eq _ s, ?_⟩
  show Config.reference.phUpdate s.engine.phr 0x1000 = 0x00000400
  rw [hphr]
  decide

/-- D8: the reference threshold is 0. -/
theorem reference_hits_iff (pc : Pc) (g : Engine Widths.reference) :
    hits Config.reference pc g = true ↔
      (tableRead g.apt (Config.reference.calcIndex pc g.phr)).tag = Config.reference.calcTag pc ∧
        0 < (tableRead g.apt (Config.reference.calcIndex pc g.phr)).confidence.toNat := hits_iff ..

/-- Settles O17: a hit and a miss, `MISS_VALUE` being 0 in the reference configuration. -/
theorem predictReadsSlot : Obligations.PredictReadsSlot := by
  refine ⟨fun p h => decode_of_cmd_predict h, fun pc s => ⟨_, exec_eq _ s, ?_, rfl, rfl⟩, _, exec_eq _ _, by decide⟩
  intro e
  show predictResults Config.reference pc s.engine = _
  split
  next hhit => exact predictResults_hit _ _ _ ((reference_hits_iff pc s.engine).mpr hhit)
  next hmiss =>
    exact predictResults_miss _ _ _ (Bool.eq_false_iff.mpr fun h => hmiss ((reference_hits_iff pc s.engine).mp h))

/-- Settles O15: the four confidences, one by one. -/
theorem hitIsTagMatchAndConfidence : Obligations.HitIsTagMatchAndConfidence := by
  have hconf : ∀ k : Confidence, k ≠ 0 ↔ k = 1 ∨ k = 2 ∨ k = 3 := by decide
  refine ⟨fun e t => ?_, by decide⟩
  rw [queryHitMiss_iff_of_threshold_zero rfl, hconf]

/-- Settles O19: a confidence of 0 is above no threshold. -/
theorem freshTableMisses : Obligations.FreshTableMisses := by
  intro w c pc g hempty
  have hmiss : hits c pc g = false := by
    rw [Bool.eq_false_iff, ne_eq, hits_iff, entryOf, hempty]
    exact fun h => Nat.not_lt_zero _ h.2
  exact predictResults_miss c pc g hmiss

/-- Settles O16: the engine is left as it is, and the outputs are read off the slot. -/
theorem rdentryCopiesSlot : Obligations.RdentryCopiesSlot :=
  ⟨fun _ h => decode_of_cmd_rdentry h,
    fun _ s => ⟨_, exec_eq _ s, rfl, rfl, rfl, rfl, rfl, rfl, rfl, rfl⟩,
    rfl, _, exec_eq _ _, by decide⟩

/-- Settles O29: the counters step by `satinc64`, which clamps at the width of a counter. -/
theorem updstatsCounts : Obligations.UpdstatsCounts := by
  refine ⟨fun p h => decode_of_cmd_updstats h, fun pred actual pc s => ?_, fun pred actual pc pc' s => rfl,
    _, _, exec_eq _ _, by decide, by decide, exec_eq _ _, by decide, by decide⟩
  refine ⟨_, exec_eq _ s, satinc64_counter_toNat _, ?_, rfl, rfl, rfl, rfl⟩
  show (updstatsEngine pred actual pc s.engine).numCorrect.toNat = _
  simp only [updstatsEngine_numCorrect, isCorrectPred_iff]
  split
  · exact satinc64_counter_toNat _
  · rfl

/-- The three operations that write nothing lead back to the state they started in. -/
theorem eq_of_exec_read {i : Instr} {s t : State}
    (hi : i = .nop ∨ (∃ pc, i = .predict pc) ∨ ∃ idx, i = .rdentry idx) (h : exec i s = .next t) : t = s := by
  rw [exec_eq] at h
  injection h with h
  obtain rfl | ⟨pc, rfl⟩ | ⟨idx, rfl⟩ := hi <;> exact h.symm

/-- Settles O44: the state after a read is the state before it. -/
theorem readsLeaveNoRecord : Obligations.ReadsLeaveNoRecord := by
  intro i j s t hi h
  rw [eq_of_exec_read hi h]
  exact ⟨rfl, rfl⟩

/-- Settles O18: PREDICT leads back to the state it started in. -/
theorem predictRepeatsItself : Obligations.PredictRepeatsItself := by
  intro pc s t h
  obtain rfl := eq_of_exec_read (.inr (.inl ⟨pc, rfl⟩)) h
  exact ⟨h, rfl⟩

/-- The codes 000, 110 and 111 answer alike. -/
theorem portsAnswer_of_idle_code (c : Config Widths.reference) {p : Ports} (g : Engine Widths.reference) (hrst : p.rst = false)
    (h : p.cmd = 0b000 ∨ p.cmd = 0b110 ∨ p.cmd = 0b111) : portsAnswer c p g = nopAnswer g := by
  obtain h | h := h
  · exact portsAnswer_instr c p _ g hrst (decode_of_cmd_nop h)
  · exact portsAnswer_rejected c p _ g hrst (decode_of_cmd_reserved h)

/-- Settles O30: the three codes answer as NOP, and NOP answers with the same engine and no result. -/
theorem nopAndReservedDoNothing : Obligations.NopAndReservedDoNothing := by
  refine ⟨fun p h => decode_of_cmd_nop h, fun s => ⟨exec_eq _ s, rfl⟩, fun p s hrst h => ⟨?_, fun c => ?_⟩⟩
  · rw [issue_eq, portsAnswer_of_idle_code _ _ hrst h]
    rfl
  · rw [portsResults, portsAnswer_of_idle_code _ _ hrst h]
    rfl

/-- Settles O32: with `rst` the command is not decoded. -/
theorem resetLeavesTheseValues : Obligations.ResetLeavesTheseValues := by
  refine ⟨rfl, rfl, rfl, fun _ => rfl, rfl, rfl, fun p s hrst => ⟨?_, fun c => ?_⟩⟩
  · rw [issue_eq, portsAnswer_reset _ _ _ hrst]
    rfl
  · rw [portsResults, portsAnswer_reset _ _ _ hrst]
    rfl

/-- Settles O34: with nothing pending the idle ports are issued, which decode to NOP. -/
theorem stepRunsDecoded : Obligations.StepRunsDecoded := by
  refine ⟨fun p rest i s hpending hrst hdec => ⟨?_, ?_⟩, fun s hpending => ⟨?_, ?_⟩⟩
  · rw [step_eq, nextCommand_of_pending hpending, portsAnswer_instr _ _ _ _ hrst hdec, exec_eq]
  · rw [State.outPorts, nextCommand_of_pending hpending, portsResults, portsAnswer_instr _ _ _ _ hrst hdec]
    rfl
  · rw [step_eq, nextCommand_of_idle hpending, exec_eq]
    rfl
  · rw [State.outPorts, nextCommand_of_idle hpending]
    rfl

/-! ## The load event (70_reset_and_hazards.md R124, 30_encoding.md R56) -/

theorem traceLineEngine_op (c : Config Widths.reference) (g : Engine Widths.reference) (i : Instr) :
    traceLineEngine c g (.op i) = engineAfter c i g := portsEngine_of_instr (encode_rst i) (decode_encode i)

/-- The engine in which the TRAIN of a load event runs: UPH has folded pc in, and a hit has been counted. -/
def loadCounted (c : Config Widths.reference) (pc : Pc) (actual : Value) (g : Engine Widths.reference) :
    Engine Widths.reference :=
  if (loadPrediction c pc g).hit then updstatsEngine (loadPrediction c pc g).value actual pc (uphEngine c pc g)
  else uphEngine c pc g

section
variable (c : Config Widths.reference) (pc : Pc) (actual : Value) (size : Size) (g : Engine Widths.reference)

theorem loadEngine_eq : loadEngine c pc actual size g =
    trainEngine c (loadPrediction c pc g).value actual pc size (loadCounted c pc actual g) := by
  cases hhit : (loadPrediction c pc g).hit <;>
    simp [loadEngine, loadLines, loadCounted, traceEngine, traceLineEngine_op, hhit]

@[simp] theorem loadCounted_phr : (loadCounted c pc actual g).phr = c.phUpdate g.phr pc := by
  unfold loadCounted; split <;> rfl

@[simp] theorem loadCounted_apt : (loadCounted c pc actual g).apt = g.apt := by
  unfold loadCounted; split <;> rfl

theorem tableRead_loadEngine_slot : tableRead (loadEngine c pc actual size g).apt (c.calcIndex pc (c.phUpdate g.phr pc)) =
    trainEntry c (loadPrediction c pc g).value actual pc size
      (tableRead g.apt (c.calcIndex pc (c.phUpdate g.phr pc))) := by
  have h := tableRead_trainEngine_slot c (loadPrediction c pc g).value actual pc size (loadCounted c pc actual g)
  rwa [← loadEngine_eq, loadCounted_phr, loadCounted_apt] at h

theorem tableRead_loadEngine_other {j : Index} (h : j ≠ c.calcIndex pc (c.phUpdate g.phr pc)) :
    tableRead (loadEngine c pc actual size g).apt j = tableRead g.apt j := by
  rw [loadEngine_eq, tableRead_trainEngine_other _ _ _ _ _ _ (by rwa [loadCounted_phr]), loadCounted_apt]

/-- The prediction of a load event looks at the slot of pc under the new PHR. -/
theorem loadPrediction_hit : (loadPrediction c pc g).hit =
    queryHitMiss c (tableRead g.apt (c.calcIndex pc (c.phUpdate g.phr pc))) (c.calcTag pc) :=
  predictResults_hit_eq ..

theorem loadPrediction_value (h : (loadPrediction c pc g).hit = true) :
    (loadPrediction c pc g).value = (tableRead g.apt (c.calcIndex pc (c.phUpdate g.phr pc))).address := by
  unfold loadPrediction at h ⊢
  rw [predictResults_hit_eq] at h
  rw [predictResults_hit _ _ _ h]
  rfl

end

/-- Settles O42: the TRAIN of the load event acts on the slot, its UPDSTATS, on a hit, on the counters. -/
theorem loadEventEffect : Obligations.LoadEventEffect := by
  intro c pc actual size g _ h i r g'
  have hslot := tableRead_loadEngine_slot c pc actual size g
  have hg' : g' = trainEngine c r.value actual pc size (loadCounted c pc actual g) := loadEngine_eq c pc actual size g
  refine ⟨?_, ?_, ?_, fun j hj => tableRead_loadEngine_other c pc actual size g hj, fun hmiss => ?_, fun hhit => ?_⟩
  · rw [hg', trainEngine_phr, loadCounted_phr]
  · rw [hslot, trainEntry_tag]
  · rw [hslot]
    exact trainEntry_confidence_ne_zero c r.value actual pc size _
  · have hk : loadCounted c pc actual g = uphEngine c pc g := if_neg (Bool.eq_false_iff.mp hmiss)
    refine ⟨by rw [hg', hk]; rfl, by rw [hg', hk]; rfl, ?_⟩
    rw [loadPrediction_hit] at hmiss
    rw [hslot, trainEntry_of_miss hmiss]
    rfl
  · have hk : loadCounted c pc actual g = updstatsEngine r.value actual pc (uphEngine c pc g) := if_pos hhit
    rw [hg', hk, loadPrediction_value c pc g hhit]
    refine ⟨rfl, ?_⟩
    rw [trainEngine_numCorrect, updstatsEngine_numCorrect]
    simp only [isCorrectPred_iff]
    rfl

end Sys2Proof.Machine
